-- ==== Sys2Proof/Word.lean ====
section
/-! DEFINITION. The word types of the machine and the two kinds of register number
(10 R20, R22; 30 R182, R196). -/

namespace Sys2Proof

/-- A 32-bit register value, address or instruction word. -/
abbrev Word := BitVec 32

/-- A 16-bit instruction parcel. -/
abbrev Half := BitVec 16

/-- One byte of memory. -/
abbrev Byte := BitVec 8

/-- The number of a general register, x0 to x15 (10 R20, R23). -/
abbrev Reg := Fin 16

/-- The value of a 3-bit compressed register field; it names x8 to x15 (30 R196). -/
abbrev CReg := Fin 8

end Sys2Proof
end

