-- ==== Sys2Proof/Machine/Flags.lean ====
section
/-! DEFINITION. The conditions the instructions compute. The machine has no flags register and no flag bits (00 R15):
a comparison gives a register value 0 or 1, or decides a branch. -/

namespace Sys2Proof.Machine

/-- Signed less-than (40 R223, R231; 41 R262, R263). -/
def ltSigned (a b : Word) : Bool := BitVec.slt a b

/-- Unsigned less-than (40 R224, R232; 41 R264, R265). -/
def ltUnsigned (a b : Word) : Bool := BitVec.ult a b

/-- A condition as a register value. -/
def boolWord (b : Bool) : Word := if b then 1 else 0

/-- A condition as a bit of a register. -/
def boolBit (b : Bool) : BitVec 1 := BitVec.ofBool b

end Sys2Proof.Machine
end

