-- ==== Sys2Proof/Config.lean ====
section
/-! DEFINITION. What the integration of the core fixes (00 R9), the parameters the spec adds (spec/92 section 5) and the
bodyless constants that stand for the values the spec leaves open. A `Config` is plain data and every statement about the
machine holds for every value of it. -/

namespace Sys2Proof

/-- `PMP_ENTRIES` (00 R9). -/
inductive PmpCount where
  | none | four | eight | twelve | sixteen
  deriving DecidableEq, Repr

/-- `ICACHE_SIZE` (00 R9): absent, 2 KiB, 4 KiB, 8 KiB. -/
inductive IcacheSize where
  | none | kib2 | kib4 | kib8
  deriving DecidableEq, Repr

/-- `CLICINTCTLBITS` (00 R9). -/
inductive CtlBits where
  | two | three | four | five
  deriving DecidableEq, Repr

/-- `RVC_CONSTRAINT_VIOLATION` (30 R202). -/
inductive RvcViolation where
  /-- no next state -/
  | refuse
  /-- every case raises IllegalInstruction -/
  | illegal
  /-- reserved forms raise IllegalInstruction, HINT forms execute -/
  | standard
  deriving DecidableEq, Repr

/-- `MPP_ILLEGAL_WRITE` (10 R42, D33). -/
inductive MppIllegalWrite where
  | keepOld | forceM | anyLegal
  deriving DecidableEq, Repr

/-- One sysmap region: bits 31:12 of its exclusive upper bound, and its two attributes (20 R140). -/
structure SysmapRegion where
  upper : BitVec 20
  cacheable : Bool
  bufferable : Bool
  deriving DecidableEq, Repr

/-- `CSR_LAYOUT` (D36): the position of the lowest bit of every field whose register figure is lost; the positions of
DACSR, a register of the debug unit, with them (60 R504, log 24). -/
structure Layout where
  mstatusMpie : Nat
  mstatusMprv : Nat
  mcounterenCy : Nat
  mcounterenTm : Nat
  mcounterenIr : Nat
  mintstatusMil : Nat
  mxstatusPm : Nat
  mexSoftRst : Nat
  mexLpmd : Nat
  mexWfe : Nat
  mexExptVld : Nat
  mexLockup : Nat
  nmiIntr : Nat
  nmiMpp : Nat
  nmiMpie : Nat
  nmiVector : Nat
  clicinfoNum : Nat
  clicinfoVersion : Nat
  clicinfoBits : Nat
  mintthreshMth : Nat
  dacsrProt : Nat
  dacsrBusy : Nat
  dacsrError : Nat
  dacsrDataPhase : Nat
  deriving DecidableEq, Repr

/-- The configuration of one core. -/
structure Config where
  /-- `HAS_M` -/
  hasM : Bool
  /-- `FAST_MUL`: timing only, nothing reads it -/
  fastMul : Bool
  /-- `HAS_UMODE` -/
  hasUmode : Bool
  /-- `PMP_ENTRIES` -/
  pmpEntries : PmpCount
  /-- `ICACHE_SIZE` -/
  icacheSize : IcacheSize
  /-- `CLIC_NUM_EXT_INT` minus 1: 1 to 240 sources -/
  numExtPred : Fin 240
  /-- `CLICINTCTLBITS` -/
  ctlBits : CtlBits
  /-- `RESET_ADDR[31:2]`; its two low bits are 0 -/
  resetAddrHi : BitVec 30
  /-- `MCPUID_VALUE`: the first word MCPUID reads -/
  mcpuidFirst : Word
  /-- `MCPUID_VALUE`: the further words of the sequence (log 19) -/
  mcpuidRest : List Word
  /-- `SYSMAP` -/
  sysmap : Vector SysmapRegion 8
  /-- `IAHB_BASE`, standing for address bits 31:20 (20 R131) -/
  iahbBase : BitVec 12
  /-- `IAHB_MASK` (20 R131) -/
  iahbMask : BitVec 12
  /-- `CLICINFO_VERSION` -/
  clicinfoVersion : BitVec 8
  /-- `SLTIU_ZERO_EXTENDS` -/
  sltiuZeroExtends : Bool
  /-- `CSRRWI_LOW5_ONLY` -/
  csrrwiLow5Only : Bool
  /-- `CSR_WRITE_NOTE_LITERAL` -/
  csrWriteNoteLiteral : Bool
  /-- `RVC_CONSTRAINT_VIOLATION` -/
  rvcViolation : RvcViolation
  /-- `EBREAK_ENTERS_DEBUG` -/
  ebreakEntersDebug : Bool
  /-- `MPP_ILLEGAL_WRITE` -/
  mppIllegalWrite : MppIllegalWrite
  /-- `CSR_LAYOUT` -/
  layout : Layout
  /-- `MINSTRET_COUNTS_TRAPPED` -/
  minstretCountsTrapped : Bool
  /-- `U_MODE_IGNORES_MIE` -/
  uModeIgnoresMie : Bool
  /-- `NMI_TOUCHES_MIE` -/
  nmiTouchesMie : Bool
  /-- `ECALL_SETS_EXPT_VLD` -/
  ecallSetsExptVld : Bool
  /-- whether MHCR.IE is writable on a core without an instruction cache (10 R83; log 22) -/
  mhcrIeWithoutCache : Bool
  /-- whether a machine-mode write of MCPUID raises IllegalInstruction (43 R300 step 4, 10 R99) or is ignored (D5, C21;
  log 19) -/
  mcpuidWriteTraps : Bool
  /-- whether CSRRW with rd = x0 on MSCRATCHCSW and MSCRATCHCSWL executes (43 R308, "any rd") or is refused (10 R51, R52,
  D28; log 20) -/
  scratchSwapWithoutRd : Bool
  /-- whether FENCE.I empties the instruction cache while MHCR.IE = 0 too (20 R166, R174) or leaves it then (43 R315, corner
  case; log 35) -/
  fenceIEmptiesIdleCache : Bool
  deriving DecidableEq, Repr

/-- How many PMP entries exist. -/
def PmpCount.toNat : PmpCount → Nat
  | .none => 0
  | .four => 4
  | .eight => 8
  | .twelve => 12
  | .sixteen => 16

/-- How many CLICINTCTL bits are implemented. -/
def CtlBits.toNat : CtlBits → Nat
  | .two => 2
  | .three => 3
  | .four => 4
  | .five => 5

/-- The reset start address, also the value of MRADDR (10 R28, R84). -/
def Config.resetAddr (c : Config) : Word := c.resetAddrHi ++ 0#2

/-- `CLIC_NUM_EXT_INT`. -/
def Config.numExt (c : Config) : Nat := c.numExtPred.val + 1

/-! ### Values the spec leaves open

Each constant has no body: nothing can evaluate it, so whatever is proved holds for every value. Each is applied to
`State.draws`, the number of open values drawn before. -/

/-- How many cycles MCYCLE has counted since it was last read or written (10 R65, D29; log 10). -/
opaque Config.freeCycles : Nat → BitVec 64

/-- What MTVEC[5:2] reads after a non-zero write (10 R46, U12; log 11). -/
opaque Config.freeMtvecLow : Nat → BitVec 4

/-- Whether LPMD reads 2'b11 after a wake-up (10 R87, U6; log 12). -/
opaque Config.freeLpmdReadsNormal : Nat → Bool

/-- Whether `any_legal` leaves machine mode in MPP (10 R42, U18; log 17). -/
opaque Config.freeMppIsMachine : Nat → Bool

/-- Which of the parcels a fetch may return it returns (20 R167, R173, U17; log 13, 14). -/
opaque Config.freeChoice : Nat → Nat

/-- A parcel of a cache line that nothing has filled or invalidated (20 R171, U3; log 13). -/
opaque Config.freeParcel : Nat → BitVec 16

/-- Whether a fetch that misses records the line (20 R173; log 13). -/
opaque Config.freeFill : Nat → Bool

end Sys2Proof
end

