-- ==== Sys2Proof/Machine/Reference.lean ====
section
/-! DEFINITION. The reference configuration: the one `State.reset` uses. A parameter of spec/92 section 5 that has a
default has it here, but for `RVC_CONSTRAINT_VIOLATION` (log 5). What the spec leaves without a default (the integration
options, MCPUID_VALUE, CLICINFO_VERSION) is a DESIGN CHOICE, named in log 4. -/

namespace Sys2Proof

/-- The general-knowledge positions the spec gives as default (D36, spec/93 K1 to K10; log 6). The four positions of DACSR,
which 60 R504 calls unknown, are a DESIGN CHOICE (log 24). -/
def Layout.reference : Layout where
  mstatusMpie := 7
  mstatusMprv := 17
  mcounterenCy := 0
  mcounterenTm := 1
  mcounterenIr := 2
  mintstatusMil := 24
  mxstatusPm := 30
  mexSoftRst := 0
  mexLpmd := 2
  mexWfe := 4
  mexExptVld := 5
  mexLockup := 6
  nmiIntr := 31
  nmiMpp := 28
  nmiMpie := 27
  nmiVector := 0
  clicinfoNum := 0
  clicinfoVersion := 13
  clicinfoBits := 21
  mintthreshMth := 24
  dacsrProt := 8
  dacsrBusy := 16
  dacsrError := 17
  dacsrDataPhase := 18

/-- The reference configuration (log 4, log 5). DESIGN CHOICE: `clicinfoVersion` 0 and `mcpuidFirst` 0, for which the spec
gives no default (CLICINFO_VERSION is OPEN, N15; MCPUID_VALUE is the product's, 10 R99). -/
def Config.reference : Config where
  hasM := true
  fastMul := true
  hasUmode := true
  pmpEntries := .sixteen
  icacheSize := .kib8
  numExtPred := 15
  ctlBits := .three
  resetAddrHi := 0
  mcpuidFirst := 0
  mcpuidRest := []
  sysmap := Vector.replicate 8 { upper := 0, cacheable := true, bufferable := true }
  iahbBase := 0
  iahbMask := 0xE00
  clicinfoVersion := 0
  sltiuZeroExtends := false
  csrrwiLow5Only := false
  csrWriteNoteLiteral := false
  rvcViolation := .standard
  ebreakEntersDebug := false
  mppIllegalWrite := .keepOld
  layout := .reference
  minstretCountsTrapped := false
  uModeIgnoresMie := false
  nmiTouchesMie := true
  ecallSetsExptVld := true
  mhcrIeWithoutCache := true
  mcpuidWriteTraps := false
  scratchSwapWithoutRd := false
  fenceIEmptiesIdleCache := false

end Sys2Proof
end

