-- ==== Sys2Proof/Syntax.lean ====
section
/-! DEFINITION. The instructions: one constructor for each of the 86 rows of spec/opcode_table.json (30 R194, R199).
Immediates are held at the width the manual names, before scaling and extension. -/

namespace Sys2Proof

/-- The 86 instructions of the E902. The argument order is the manual's assembler order, destination first,
stored register first (30 R208). -/
inductive Instr where
  -- spec/40: integer computational
  | lui (rd : Reg) (imm20 : BitVec 20)
  | auipc (rd : Reg) (imm20 : BitVec 20)
  -- spec/41: jumps and branches
  | jal (rd : Reg) (imm20 : BitVec 20)
  | jalr (rd rs1 : Reg) (imm12 : BitVec 12)
  | beq (rs1 rs2 : Reg) (imm12 : BitVec 12)
  | bne (rs1 rs2 : Reg) (imm12 : BitVec 12)
  | blt (rs1 rs2 : Reg) (imm12 : BitVec 12)
  | bge (rs1 rs2 : Reg) (imm12 : BitVec 12)
  | bltu (rs1 rs2 : Reg) (imm12 : BitVec 12)
  | bgeu (rs1 rs2 : Reg) (imm12 : BitVec 12)
  -- spec/42: loads and stores
  | lb (rd rs1 : Reg) (imm12 : BitVec 12)
  | lh (rd rs1 : Reg) (imm12 : BitVec 12)
  | lw (rd rs1 : Reg) (imm12 : BitVec 12)
  | lbu (rd rs1 : Reg) (imm12 : BitVec 12)
  | lhu (rd rs1 : Reg) (imm12 : BitVec 12)
  | sb (rs2 rs1 : Reg) (imm12 : BitVec 12)
  | sh (rs2 rs1 : Reg) (imm12 : BitVec 12)
  | sw (rs2 rs1 : Reg) (imm12 : BitVec 12)
  -- spec/40: register-immediate
  | addi (rd rs1 : Reg) (imm12 : BitVec 12)
  | slti (rd rs1 : Reg) (imm12 : BitVec 12)
  | sltiu (rd rs1 : Reg) (imm12 : BitVec 12)
  | xori (rd rs1 : Reg) (imm12 : BitVec 12)
  | ori (rd rs1 : Reg) (imm12 : BitVec 12)
  | andi (rd rs1 : Reg) (imm12 : BitVec 12)
  | slli (rd rs1 : Reg) (shamt5 : BitVec 5)
  | srli (rd rs1 : Reg) (shamt5 : BitVec 5)
  | srai (rd rs1 : Reg) (shamt5 : BitVec 5)
  -- spec/40: register-register
  | add (rd rs1 rs2 : Reg)
  | sub (rd rs1 rs2 : Reg)
  | sll (rd rs1 rs2 : Reg)
  | slt (rd rs1 rs2 : Reg)
  | sltu (rd rs1 rs2 : Reg)
  | xor (rd rs1 rs2 : Reg)
  | srl (rd rs1 rs2 : Reg)
  | sra (rd rs1 rs2 : Reg)
  | or (rd rs1 rs2 : Reg)
  | and (rd rs1 rs2 : Reg)
  -- spec/44: multiply and divide
  | mul (rd rs1 rs2 : Reg)
  | mulh (rd rs1 rs2 : Reg)
  | mulhsu (rd rs1 rs2 : Reg)
  | mulhu (rd rs1 rs2 : Reg)
  | div (rd rs1 rs2 : Reg)
  | divu (rd rs1 rs2 : Reg)
  | rem (rd rs1 rs2 : Reg)
  | remu (rd rs1 rs2 : Reg)
  -- spec/43: system
  | fence (pred succ : BitVec 4)
  | fenceI
  | ecall
  | ebreak
  | mret
  | wfi
  | csrrw (rd : Reg) (csr : BitVec 12) (rs1 : Reg)
  | csrrs (rd : Reg) (csr : BitVec 12) (rs1 : Reg)
  | csrrc (rd : Reg) (csr : BitVec 12) (rs1 : Reg)
  | csrrwi (rd : Reg) (csr : BitVec 12) (imm5 : BitVec 5)
  | csrrsi (rd : Reg) (csr : BitVec 12) (imm5 : BitVec 5)
  | csrrci (rd : Reg) (csr : BitVec 12) (imm5 : BitVec 5)
  -- spec/46: T-HEAD cache
  | icacheIall
  | icacheIpa (rs1 : Reg)
  -- spec/45: compressed
  | cAddi4spn (rd : CReg) (nzuimm8 : BitVec 8)
  | cLw (rd rs1 : CReg) (uimm5 : BitVec 5)
  | cSw (rs2 rs1 : CReg) (uimm5 : BitVec 5)
  | cNop
  | cAddi (rd : Reg) (nzimm6 : BitVec 6)
  | cJal (imm11 : BitVec 11)
  | cLi (rd : Reg) (imm6 : BitVec 6)
  | cAddi16sp (nzimm6 : BitVec 6)
  | cLui (rd : Reg) (nzimm6 : BitVec 6)
  | cSrli (rd : CReg) (shamt5 : BitVec 5)
  | cSrai (rd : CReg) (shamt5 : BitVec 5)
  | cAndi (rd : CReg) (imm6 : BitVec 6)
  | cSub (rd rs2 : CReg)
  | cXor (rd rs2 : CReg)
  | cOr (rd rs2 : CReg)
  | cAnd (rd rs2 : CReg)
  | cJ (imm11 : BitVec 11)
  | cBeqz (rs1 : CReg) (imm8 : BitVec 8)
  | cBnez (rs1 : CReg) (imm8 : BitVec 8)
  | cSlli (rd : Reg) (shamt5 : BitVec 5)
  | cLwsp (rd : Reg) (uimm6 : BitVec 6)
  | cJr (rs1 : Reg)
  | cMv (rd rs2 : Reg)
  | cEbreak
  | cJalr (rs1 : Reg)
  | cAdd (rd rs2 : Reg)
  | cSwsp (rs2 : Reg) (uimm6 : BitVec 6)
  deriving DecidableEq, Repr

end Sys2Proof
end

