-- ==== Sys2Proof/WellFormed.lean ====
section
/-! DEFINITION. Which instruction terms are well formed: the operand constraints the manual states for the compressed
instructions (30 R199, R202; 45 R353), and which need the multiplier. Every other constraint of the encoding is in the types of `Instr`. -/

namespace Sys2Proof

/-- The operand constraint of the instruction's own section holds (30 R199, column "Constraint").
A term that breaks it is no instruction the manual describes; what a halfword of that shape does is
30 R202 (`RVC_CONSTRAINT_VIOLATION`, Decode.lean). -/
def Instr.wellFormed : Instr → Bool
  | .cAddi4spn _ imm => imm != 0
  | .cAddi rd imm => rd != 0 && imm != 0
  | .cLi rd _ => rd != 0
  | .cAddi16sp imm => imm != 0
  | .cLui rd imm => rd != 0 && rd != 2 && imm != 0
  | .cSrli _ k => k != 0
  | .cSrai _ k => k != 0
  | .cSlli rd k => rd != 0 && k != 0
  | .cLwsp rd _ => rd != 0
  | .cJr rs1 => rs1 != 0
  | .cMv rd rs2 => rd != 0 && rs2 != 0
  | .cJalr rs1 => rs1 != 0
  | .cAdd rd rs2 => rd != 0 && rs2 != 0
  | .lui .. | .auipc .. | .jal .. | .jalr .. | .beq .. | .bne .. | .blt .. | .bge .. | .bltu .. | .bgeu ..
  | .lb .. | .lh .. | .lw .. | .lbu .. | .lhu .. | .sb .. | .sh .. | .sw ..
  | .addi .. | .slti .. | .sltiu .. | .xori .. | .ori .. | .andi .. | .slli .. | .srli .. | .srai ..
  | .add .. | .sub .. | .sll .. | .slt .. | .sltu .. | .xor .. | .srl .. | .sra .. | .or .. | .and ..
  | .mul .. | .mulh .. | .mulhsu .. | .mulhu .. | .div .. | .divu .. | .rem .. | .remu ..
  | .fence .. | .fenceI | .ecall | .ebreak | .mret | .wfi
  | .csrrw .. | .csrrs .. | .csrrc .. | .csrrwi .. | .csrrsi .. | .csrrci .. | .icacheIall | .icacheIpa ..
  | .cLw .. | .cSw .. | .cNop | .cJal .. | .cAndi .. | .cSub .. | .cXor .. | .cOr .. | .cAnd .. | .cJ ..
  | .cBeqz .. | .cBnez .. | .cEbreak | .cSwsp .. => true

/-- The eight instructions that exist only with the hardware multiplier (30 R205). -/
def Instr.needsM : Instr → Bool
  | .mul .. | .mulh .. | .mulhsu .. | .mulhu .. | .div .. | .divu .. | .rem .. | .remu .. => true
  | .lui .. | .auipc .. | .jal .. | .jalr .. | .beq .. | .bne .. | .blt .. | .bge .. | .bltu .. | .bgeu ..
  | .lb .. | .lh .. | .lw .. | .lbu .. | .lhu .. | .sb .. | .sh .. | .sw .. | .addi .. | .slti .. | .sltiu ..
  | .xori .. | .ori .. | .andi .. | .slli .. | .srli .. | .srai .. | .add .. | .sub .. | .sll .. | .slt ..
  | .sltu .. | .xor .. | .srl .. | .sra .. | .or .. | .and .. | .fence .. | .fenceI | .ecall | .ebreak | .mret
  | .wfi | .csrrw .. | .csrrs .. | .csrrc .. | .csrrwi .. | .csrrsi .. | .csrrci .. | .icacheIall | .icacheIpa ..
  | .cLw .. | .cSw .. | .cNop | .cJal .. | .cAndi .. | .cSub .. | .cXor .. | .cOr .. | .cAnd .. | .cJ ..
  | .cBeqz .. | .cBnez .. | .cEbreak | .cSwsp .. | .cAddi4spn .. | .cAddi .. | .cLi .. | .cAddi16sp .. | .cLui ..
  | .cSrli .. | .cSrai .. | .cSlli .. | .cLwsp .. | .cJr .. | .cMv .. | .cJalr .. | .cAdd .. => false

end Sys2Proof
end

