-- ==== Sys2Proof/Decode.lean ====
section
/-! DEFINITION. The decoder, total on every pair of parcels (30 R181 to R207), and after it the encoder, both written from
the formats and tables of spec/30. Encodings of the figures the manual lost: log 7. -/

namespace Sys2Proof

/-- The bits of one instruction: one parcel or two (30 R180). -/
inductive Code where
  | c16 (h : Half)
  | c32 (w : Word)
  deriving DecidableEq, Repr

/-- The instruction code that MTVAL receives: a 16-bit code is zero-extended (30 R203, 60 R422). -/
def Code.toWord : Code → Word
  | .c16 h => h.setWidth 32
  | .c32 w => w

/-- The bytes of a code in increasing address order (30 R180). -/
def Code.bytes : Code → List Byte
  | .c16 h => [h.extractLsb' 0 8, h.extractLsb' 8 8]
  | .c32 w => [w.extractLsb' 0 8, w.extractLsb' 8 8, w.extractLsb' 16 8, w.extractLsb' 24 8]

/-- The decoder's answer (30 R207). -/
inductive DecodeResult where
  /-- one of the 86 instructions -/
  | instr (i : Instr)
  /-- the code raises IllegalInstruction -/
  | illegal
  /-- a halfword of 30 R202 under `RVC_CONSTRAINT_VIOLATION = refuse` -/
  | constraint
  deriving DecidableEq, Repr

/-! ### Register fields -/

/-- A 5-bit register field; 16 to 31 name no register (30 R193, R197). -/
def reg? (f : BitVec 5) : Option Reg :=
  if h : f.toNat < 16 then some ⟨f.toNat, h⟩ else none

/-- A 3-bit register field (30 R196). -/
def cReg (f : BitVec 3) : CReg := ⟨f.toNat, f.isLt⟩

/-- The 5-bit field that names a register. -/
def regBits (r : Reg) : BitVec 5 := BitVec.ofNat 5 r.val

/-- The 3-bit field that names a compressed register. -/
def cRegBits (r : CReg) : BitVec 3 := BitVec.ofNat 3 r.val

/-! ### Fields of a 32-bit word (30 R182 to R190) -/

/-- bits 6:0 -/
def opcodeField (w : Word) : BitVec 7 := w.extractLsb' 0 7
/-- bits 11:7 -/
def rdField (w : Word) : BitVec 5 := w.extractLsb' 7 5
/-- bits 14:12 -/
def funct3Field (w : Word) : BitVec 3 := w.extractLsb' 12 3
/-- bits 19:15 -/
def rs1Field (w : Word) : BitVec 5 := w.extractLsb' 15 5
/-- bits 24:20 -/
def rs2Field (w : Word) : BitVec 5 := w.extractLsb' 20 5
/-- bits 31:25 -/
def funct7Field (w : Word) : BitVec 7 := w.extractLsb' 25 7
/-- imm12 of the I format and the CSR number (30 R184, R190) -/
def immI (w : Word) : BitVec 12 := w.extractLsb' 20 12
/-- imm12 of the S format (30 R186) -/
def immS (w : Word) : BitVec 12 := w.extractLsb' 25 7 ++ w.extractLsb' 7 5
/-- imm12 of the B format, the offset divided by 2 (30 R187) -/
def immB (w : Word) : BitVec 12 :=
  w.extractLsb' 31 1 ++ w.extractLsb' 7 1 ++ w.extractLsb' 25 6 ++ w.extractLsb' 8 4
/-- imm20 of the U format (30 R188) -/
def immU (w : Word) : BitVec 20 := w.extractLsb' 12 20
/-- imm20 of the J format, the offset divided by 2 (30 R189) -/
def immJ (w : Word) : BitVec 20 :=
  w.extractLsb' 31 1 ++ w.extractLsb' 12 8 ++ w.extractLsb' 20 1 ++ w.extractLsb' 21 10

/-! ### 32-bit rows by format; `none` where a register field names no register (30 R193) -/

def rRow (f : Reg → Reg → Reg → Instr) (w : Word) : Option Instr :=
  match reg? (rdField w), reg? (rs1Field w), reg? (rs2Field w) with
  | some rd, some rs1, some rs2 => some (f rd rs1 rs2)
  | _, _, _ => none

def iRow (f : Reg → Reg → BitVec 12 → Instr) (w : Word) : Option Instr :=
  match reg? (rdField w), reg? (rs1Field w) with
  | some rd, some rs1 => some (f rd rs1 (immI w))
  | _, _ => none

def shiftRow (f : Reg → Reg → BitVec 5 → Instr) (w : Word) : Option Instr :=
  match reg? (rdField w), reg? (rs1Field w) with
  | some rd, some rs1 => some (f rd rs1 (rs2Field w))
  | _, _ => none

def sRow (f : Reg → Reg → BitVec 12 → Instr) (w : Word) : Option Instr :=
  match reg? (rs2Field w), reg? (rs1Field w) with
  | some rs2, some rs1 => some (f rs2 rs1 (immS w))
  | _, _ => none

def bRow (f : Reg → Reg → BitVec 12 → Instr) (w : Word) : Option Instr :=
  match reg? (rs1Field w), reg? (rs2Field w) with
  | some rs1, some rs2 => some (f rs1 rs2 (immB w))
  | _, _ => none

def uRow (f : Reg → BitVec 20 → Instr) (w : Word) : Option Instr :=
  (reg? (rdField w)).map fun rd => f rd (immU w)

def jRow (f : Reg → BitVec 20 → Instr) (w : Word) : Option Instr :=
  (reg? (rdField w)).map fun rd => f rd (immJ w)

def csrRow (f : Reg → BitVec 12 → Reg → Instr) (w : Word) : Option Instr :=
  match reg? (rdField w), reg? (rs1Field w) with
  | some rd, some rs1 => some (f rd (immI w) rs1)
  | _, _ => none

def csrImmRow (f : Reg → BitVec 12 → BitVec 5 → Instr) (w : Word) : Option Instr :=
  (reg? (rdField w)).map fun rd => f rd (immI w) (rs1Field w)

/-- An M row exists only if `HAS_M` (30 R205). -/
def mRow (hasM : Bool) (f : Reg → Reg → Reg → Instr) (w : Word) : Option Instr :=
  if hasM then rRow f w else none

/-! ### The map of the 32-bit instructions (30 R194), by major opcode -/

def loadRow (w : Word) : Option Instr :=
  if funct3Field w = 0#3 then iRow .lb w
  else if funct3Field w = 1#3 then iRow .lh w
  else if funct3Field w = 2#3 then iRow .lw w
  else if funct3Field w = 4#3 then iRow .lbu w
  else if funct3Field w = 5#3 then iRow .lhu w
  else none

def storeRow (w : Word) : Option Instr :=
  if funct3Field w = 0#3 then sRow .sb w
  else if funct3Field w = 1#3 then sRow .sh w
  else if funct3Field w = 2#3 then sRow .sw w
  else none

def branchRow (w : Word) : Option Instr :=
  if funct3Field w = 0#3 then bRow .beq w
  else if funct3Field w = 1#3 then bRow .bne w
  else if funct3Field w = 4#3 then bRow .blt w
  else if funct3Field w = 5#3 then bRow .bge w
  else if funct3Field w = 6#3 then bRow .bltu w
  else if funct3Field w = 7#3 then bRow .bgeu w
  else none

def immRow (w : Word) : Option Instr :=
  if funct3Field w = 0#3 then iRow .addi w
  else if funct3Field w = 1#3 then
    if funct7Field w = 0#7 then shiftRow .slli w else none
  else if funct3Field w = 2#3 then iRow .slti w
  else if funct3Field w = 3#3 then iRow .sltiu w
  else if funct3Field w = 4#3 then iRow .xori w
  else if funct3Field w = 5#3 then
    if funct7Field w = 0#7 then shiftRow .srli w
    else if funct7Field w = 0x20#7 then shiftRow .srai w
    else none
  else if funct3Field w = 6#3 then iRow .ori w
  else iRow .andi w

def baseRow (w : Word) : Option Instr :=
  if funct3Field w = 0#3 then rRow .add w
  else if funct3Field w = 1#3 then rRow .sll w
  else if funct3Field w = 2#3 then rRow .slt w
  else if funct3Field w = 3#3 then rRow .sltu w
  else if funct3Field w = 4#3 then rRow .xor w
  else if funct3Field w = 5#3 then rRow .srl w
  else if funct3Field w = 6#3 then rRow .or w
  else rRow .and w

def mulDivRow (hasM : Bool) (w : Word) : Option Instr :=
  if funct3Field w = 0#3 then mRow hasM .mul w
  else if funct3Field w = 1#3 then mRow hasM .mulh w
  else if funct3Field w = 2#3 then mRow hasM .mulhsu w
  else if funct3Field w = 3#3 then mRow hasM .mulhu w
  else if funct3Field w = 4#3 then mRow hasM .div w
  else if funct3Field w = 5#3 then mRow hasM .divu w
  else if funct3Field w = 6#3 then mRow hasM .rem w
  else mRow hasM .remu w

def regRow (hasM : Bool) (w : Word) : Option Instr :=
  if funct7Field w = 0#7 then baseRow w
  else if funct7Field w = 1#7 then mulDivRow hasM w
  else if funct7Field w = 0x20#7 then
    if funct3Field w = 0#3 then rRow .sub w
    else if funct3Field w = 5#3 then rRow .sra w
    else none
  else none

/-- FENCE takes any predecessor and successor set; every other bit is fixed (30 R206, D44). -/
def fenceRow (w : Word) : Option Instr :=
  if w = 0x0000100F#32 then some .fenceI
  else if w &&& 0xF00FFFFF#32 = 0x0000000F#32 then some (.fence (w.extractLsb' 24 4) (w.extractLsb' 20 4))
  else none

def systemRow (w : Word) : Option Instr :=
  if funct3Field w = 1#3 then csrRow .csrrw w
  else if funct3Field w = 2#3 then csrRow .csrrs w
  else if funct3Field w = 3#3 then csrRow .csrrc w
  else if funct3Field w = 5#3 then csrImmRow .csrrwi w
  else if funct3Field w = 6#3 then csrImmRow .csrrsi w
  else if funct3Field w = 7#3 then csrImmRow .csrrci w
  else if w = 0x00000073#32 then some .ecall
  else if w = 0x00100073#32 then some .ebreak
  else if w = 0x30200073#32 then some .mret
  else if w = 0x10500073#32 then some .wfi
  else none

/-- The two T-HEAD cache instructions (30 R192). -/
def theadRow (w : Word) : Option Instr :=
  if w = 0x0100000B#32 then some .icacheIall
  else if w &&& 0xFFF07FFF#32 = 0x0380000B#32 then (reg? (rs1Field w)).map .icacheIpa
  else none

/-- The row of 30 R194 a word matches, if its register fields name registers and `HAS_M` allows it. -/
def decode32 (hasM : Bool) (w : Word) : Option Instr :=
  if opcodeField w = 0x37#7 then uRow .lui w
  else if opcodeField w = 0x17#7 then uRow .auipc w
  else if opcodeField w = 0x6F#7 then jRow .jal w
  else if opcodeField w = 0x67#7 then
    if funct3Field w = 0#3 then iRow .jalr w else none
  else if opcodeField w = 0x63#7 then branchRow w
  else if opcodeField w = 0x03#7 then loadRow w
  else if opcodeField w = 0x23#7 then storeRow w
  else if opcodeField w = 0x13#7 then immRow w
  else if opcodeField w = 0x33#7 then regRow hasM w
  else if opcodeField w = 0x0F#7 then fenceRow w
  else if opcodeField w = 0x73#7 then systemRow w
  else if opcodeField w = 0x0B#7 then theadRow w
  else none

/-! ### Fields of a halfword (30 R195 to R198) -/

/-- bits 1:0, the quadrant -/
def quadrantField (h : Half) : BitVec 2 := h.extractLsb' 0 2
/-- bits 15:13 -/
def cFunct3Field (h : Half) : BitVec 3 := h.extractLsb' 13 3
/-- bit 12 -/
def bit12Field (h : Half) : BitVec 1 := h.extractLsb' 12 1
/-- bits 11:7, rd or rs1 of CR and CI -/
def cRdField (h : Half) : BitVec 5 := h.extractLsb' 7 5
/-- bits 6:2, rs2 of CR and CSS, shift amount, low immediate bits of CI -/
def cRs2Field (h : Half) : BitVec 5 := h.extractLsb' 2 5
/-- bits 9:7, rs1' or rd' of CL, CS, CA and CB -/
def cHighRegField (h : Half) : BitVec 3 := h.extractLsb' 7 3
/-- bits 4:2, rd' or rs2' of CIW, CL, CS and CA -/
def cLowRegField (h : Half) : BitVec 3 := h.extractLsb' 2 3
/-- nzuimm8 of C.ADDI4SPN: bits 12:5 hold [3:2, 7:4, 0, 1] -/
def immAddi4spn (h : Half) : BitVec 8 :=
  h.extractLsb' 7 4 ++ h.extractLsb' 11 2 ++ h.extractLsb' 5 1 ++ h.extractLsb' 6 1
/-- uimm5 of C.LW and C.SW -/
def immClw (h : Half) : BitVec 5 := h.extractLsb' 5 1 ++ h.extractLsb' 10 3 ++ h.extractLsb' 6 1
/-- the 6-bit immediate of C.ADDI, C.LI, C.ANDI and C.LUI -/
def immCi (h : Half) : BitVec 6 := h.extractLsb' 12 1 ++ h.extractLsb' 2 5
/-- nzimm6 of C.ADDI16SP, the byte value divided by 16 -/
def immAddi16sp (h : Half) : BitVec 6 :=
  h.extractLsb' 12 1 ++ h.extractLsb' 3 2 ++ h.extractLsb' 5 1 ++ h.extractLsb' 2 1 ++ h.extractLsb' 6 1
/-- imm11 of C.J and C.JAL: bits 12:2 hold [10, 3, 8:7, 9, 5, 6, 2:0, 4] -/
def immCj (h : Half) : BitVec 11 :=
  h.extractLsb' 12 1 ++ h.extractLsb' 8 1 ++ h.extractLsb' 9 2 ++ h.extractLsb' 6 1 ++ h.extractLsb' 7 1
    ++ h.extractLsb' 2 1 ++ h.extractLsb' 11 1 ++ h.extractLsb' 3 3
/-- imm8 of C.BEQZ and C.BNEZ -/
def immCb (h : Half) : BitVec 8 :=
  h.extractLsb' 12 1 ++ h.extractLsb' 5 2 ++ h.extractLsb' 2 1 ++ h.extractLsb' 10 2 ++ h.extractLsb' 3 2
/-- uimm6 of C.LWSP -/
def immClwsp (h : Half) : BitVec 6 := h.extractLsb' 2 2 ++ h.extractLsb' 12 1 ++ h.extractLsb' 4 3
/-- uimm6 of C.SWSP: bits 12:7 hold [3:0, 5:4] -/
def immCswsp (h : Half) : BitVec 6 := h.extractLsb' 7 2 ++ h.extractLsb' 9 4

/-! ### The map of the 16-bit instructions (30 R199 to R202) -/

/-- What a halfword with a row is. -/
inductive Row16 where
  /-- a row with its fields; a broken constraint makes it one of the standard's HINT forms -/
  | row (i : Instr)
  /-- a form of 30 R202 that the standard calls reserved -/
  | reserved
  deriving DecidableEq, Repr

/-- Quadrant 00. -/
def quadrant0 (h : Half) : Option Row16 :=
  if cFunct3Field h = 0#3 then
    if h = 0#16 then none
    else if immAddi4spn h = 0#8 then some .reserved
    else some (.row (.cAddi4spn (cReg (cLowRegField h)) (immAddi4spn h)))
  else if cFunct3Field h = 2#3 then
    some (.row (.cLw (cReg (cLowRegField h)) (cReg (cHighRegField h)) (immClw h)))
  else if cFunct3Field h = 6#3 then
    some (.row (.cSw (cReg (cLowRegField h)) (cReg (cHighRegField h)) (immClw h)))
  else none

/-- Quadrant 01, funct3 100 (30 R200). -/
def quadrant1Alu (h : Half) : Option Row16 :=
  if h.extractLsb' 10 2 = 0#2 then
    if bit12Field h = 0#1 then some (.row (.cSrli (cReg (cHighRegField h)) (cRs2Field h))) else some .reserved
  else if h.extractLsb' 10 2 = 1#2 then
    if bit12Field h = 0#1 then some (.row (.cSrai (cReg (cHighRegField h)) (cRs2Field h))) else some .reserved
  else if h.extractLsb' 10 2 = 2#2 then some (.row (.cAndi (cReg (cHighRegField h)) (immCi h)))
  else if bit12Field h = 1#1 then none
  else if h.extractLsb' 5 2 = 0#2 then some (.row (.cSub (cReg (cHighRegField h)) (cReg (cLowRegField h))))
  else if h.extractLsb' 5 2 = 1#2 then some (.row (.cXor (cReg (cHighRegField h)) (cReg (cLowRegField h))))
  else if h.extractLsb' 5 2 = 2#2 then some (.row (.cOr (cReg (cHighRegField h)) (cReg (cLowRegField h))))
  else some (.row (.cAnd (cReg (cHighRegField h)) (cReg (cLowRegField h))))

/-- Quadrant 01. -/
def quadrant1 (h : Half) : Option Row16 :=
  if cFunct3Field h = 0#3 then
    match reg? (cRdField h) with
    | none => none
    | some rd => if rd = 0 ∧ immCi h = 0#6 then some (.row .cNop) else some (.row (.cAddi rd (immCi h)))
  else if cFunct3Field h = 1#3 then some (.row (.cJal (immCj h)))
  else if cFunct3Field h = 2#3 then
    match reg? (cRdField h) with
    | none => none
    | some rd => some (.row (.cLi rd (immCi h)))
  else if cFunct3Field h = 3#3 then
    match reg? (cRdField h) with
    | none => none
    | some rd =>
      if rd = 2 then
        if immAddi16sp h = 0#6 then some .reserved else some (.row (.cAddi16sp (immAddi16sp h)))
      else if immCi h = 0#6 then some .reserved
      else some (.row (.cLui rd (immCi h)))
  else if cFunct3Field h = 4#3 then quadrant1Alu h
  else if cFunct3Field h = 5#3 then some (.row (.cJ (immCj h)))
  else if cFunct3Field h = 6#3 then some (.row (.cBeqz (cReg (cHighRegField h)) (immCb h)))
  else some (.row (.cBnez (cReg (cHighRegField h)) (immCb h)))

/-- Quadrant 10, funct3 100 (30 R200). -/
def quadrant2Cr (h : Half) : Option Row16 :=
  match reg? (cRdField h), reg? (cRs2Field h) with
  | some rd, some rs2 =>
    if bit12Field h = 0#1 then
      if rs2 = 0 then (if rd = 0 then some .reserved else some (.row (.cJr rd)))
      else some (.row (.cMv rd rs2))
    else if rs2 = 0 then (if rd = 0 then some (.row .cEbreak) else some (.row (.cJalr rd)))
    else some (.row (.cAdd rd rs2))
  | _, _ => none

/-- Quadrant 10. -/
def quadrant2 (h : Half) : Option Row16 :=
  if cFunct3Field h = 0#3 then
    match reg? (cRdField h) with
    | none => none
    | some rd => if bit12Field h = 0#1 then some (.row (.cSlli rd (cRs2Field h))) else some .reserved
  else if cFunct3Field h = 2#3 then
    match reg? (cRdField h) with
    | none => none
    | some rd => if rd = 0 then some .reserved else some (.row (.cLwsp rd (immClwsp h)))
  else if cFunct3Field h = 4#3 then quadrant2Cr h
  else if cFunct3Field h = 6#3 then
    match reg? (cRs2Field h) with
    | none => none
    | some rs2 => some (.row (.cSwsp rs2 (immCswsp h)))
  else none

/-- The row of a halfword; `none` where no instruction is named (30 R201) or a register field is 16 to 31 (30 R197). -/
def parse16 (h : Half) : Option Row16 :=
  if quadrantField h = 0#2 then quadrant0 h
  else if quadrantField h = 1#2 then quadrant1 h
  else if quadrantField h = 2#2 then quadrant2 h
  else none

/-- Decode a halfword, with `RVC_CONSTRAINT_VIOLATION` for the forms of 30 R202 (log 5). -/
def decode16 (v : RvcViolation) (h : Half) : DecodeResult :=
  match parse16 h with
  | none => .illegal
  | some .reserved => if v = .refuse then .constraint else .illegal
  | some (.row i) =>
    if i.wellFormed then .instr i
    else match v with
      | .refuse => .constraint
      | .illegal => .illegal
      | .standard => .instr i

/-- Decode the bits of one instruction (30 R207). -/
def decodeCode (c : Config) : Code → DecodeResult
  | .c16 h => decode16 c.rvcViolation h
  | .c32 w =>
    match decode32 c.hasM w with
    | some i => .instr i
    | none => .illegal

/-- The code at a place whose first two parcels are `p0` and `p1` (30 R181). -/
def codeOfParcels (p0 p1 : Half) : Code :=
  if p0.extractLsb' 0 2 = 3#2 then .c32 (p1 ++ p0) else .c16 p0

/-- The code that starts a list of bytes in increasing address order; `none` where the list is too short. -/
def codeOfBytes : List Byte → Option Code
  | b0 :: b1 :: rest =>
    if (b1 ++ b0).extractLsb' 0 2 = 3#2 then
      match rest with
      | b2 :: b3 :: _ => some (.c32 (b3 ++ b2 ++ b1 ++ b0))
      | _ => none
    else some (.c16 (b1 ++ b0))
  | _ => none

/-- Four bytes of a table word, first parcel at the lowest address, each parcel little-endian (30 R180). -/
def tableBytes (nbits w : Nat) : List Byte :=
  [BitVec.ofNat 8 (w % 2 ^ nbits), BitVec.ofNat 8 (w % 2 ^ nbits / 256),
    BitVec.ofNat 8 (w % 2 ^ nbits / 65536), BitVec.ofNat 8 (w % 2 ^ nbits / 16777216)]

/-- The instruction the decoder reads from a table word under the reference configuration. -/
def decodeTableWord (nbits w : Nat) : Option Instr :=
  match codeOfBytes (tableBytes nbits w) with
  | none => none
  | some code =>
    match decodeCode .reference code with
    | .instr i => some i
    | .illegal | .constraint => none

/-! ### The encoder -/

def encR (f7 : BitVec 7) (f3 : BitVec 3) (op : BitVec 7) (rd rs1 rs2 : Reg) : Code :=
  .c32 (f7 ++ regBits rs2 ++ regBits rs1 ++ f3 ++ regBits rd ++ op)

def encI (f3 : BitVec 3) (op : BitVec 7) (rd rs1 : Reg) (imm : BitVec 12) : Code :=
  .c32 (imm ++ regBits rs1 ++ f3 ++ regBits rd ++ op)

def encShift (f7 : BitVec 7) (f3 : BitVec 3) (rd rs1 : Reg) (k : BitVec 5) : Code :=
  .c32 (f7 ++ k ++ regBits rs1 ++ f3 ++ regBits rd ++ 0x13#7)

def encS (f3 : BitVec 3) (rs2 rs1 : Reg) (imm : BitVec 12) : Code :=
  .c32 (imm.extractLsb' 5 7 ++ regBits rs2 ++ regBits rs1 ++ f3 ++ imm.extractLsb' 0 5 ++ 0x23#7)

def encB (f3 : BitVec 3) (rs1 rs2 : Reg) (imm : BitVec 12) : Code :=
  .c32 (imm.extractLsb' 11 1 ++ imm.extractLsb' 4 6 ++ regBits rs2 ++ regBits rs1 ++ f3
    ++ imm.extractLsb' 0 4 ++ imm.extractLsb' 10 1 ++ 0x63#7)

def encU (op : BitVec 7) (rd : Reg) (imm : BitVec 20) : Code :=
  .c32 (imm ++ regBits rd ++ op)

def encJ (rd : Reg) (imm : BitVec 20) : Code :=
  .c32 (imm.extractLsb' 19 1 ++ imm.extractLsb' 0 10 ++ imm.extractLsb' 10 1 ++ imm.extractLsb' 11 8
    ++ regBits rd ++ 0x6F#7)

def encCsr (f3 : BitVec 3) (rd : Reg) (csr : BitVec 12) (field : BitVec 5) : Code :=
  .c32 (csr ++ field ++ f3 ++ regBits rd ++ 0x73#7)

/-- CI: `funct3 | imm[5] | rd | imm[4:0] | op` -/
def encCi (f3 : BitVec 3) (op : BitVec 2) (rd : Reg) (imm : BitVec 6) : Code :=
  .c16 (f3 ++ imm.extractLsb' 5 1 ++ regBits rd ++ imm.extractLsb' 0 5 ++ op)

/-- CL and CS: `funct3 | imm[3:1] | rs1' | imm[0] imm[4] | rd' | 00` -/
def encCl (f3 : BitVec 3) (low high : CReg) (imm : BitVec 5) : Code :=
  .c16 (f3 ++ imm.extractLsb' 1 3 ++ cRegBits high ++ imm.extractLsb' 0 1 ++ imm.extractLsb' 4 1
    ++ cRegBits low ++ 0#2)

/-- CA: `100 0 11 | rd' | funct2 | rs2' | 01` -/
def encCa (f2 : BitVec 2) (rd rs2 : CReg) : Code :=
  .c16 (0x23#6 ++ cRegBits rd ++ f2 ++ cRegBits rs2 ++ 1#2)

/-- CB with a shift or immediate: `100 | b12 | funct2 | rd' | imm[4:0] | 01` -/
def encCbAlu (b12 : BitVec 1) (f2 : BitVec 2) (rd : CReg) (low : BitVec 5) : Code :=
  .c16 (4#3 ++ b12 ++ f2 ++ cRegBits rd ++ low ++ 1#2)

/-- CB branch: `funct3 | imm[7] imm[3:2] | rs1' | imm[6:5] imm[1:0] imm[4] | 01` -/
def encCb (f3 : BitVec 3) (rs1 : CReg) (imm : BitVec 8) : Code :=
  .c16 (f3 ++ imm.extractLsb' 7 1 ++ imm.extractLsb' 2 2 ++ cRegBits rs1 ++ imm.extractLsb' 5 2
    ++ imm.extractLsb' 0 2 ++ imm.extractLsb' 4 1 ++ 1#2)

/-- CJ: `funct3 | imm[10 3 8:7 9 5 6 2:0 4] | 01` -/
def encCj (f3 : BitVec 3) (imm : BitVec 11) : Code :=
  .c16 (f3 ++ imm.extractLsb' 10 1 ++ imm.extractLsb' 3 1 ++ imm.extractLsb' 7 2 ++ imm.extractLsb' 9 1
    ++ imm.extractLsb' 5 1 ++ imm.extractLsb' 6 1 ++ imm.extractLsb' 0 3 ++ imm.extractLsb' 4 1 ++ 1#2)

/-- CR: `funct4 | rd | rs2 | 10` -/
def encCr (f4 : BitVec 4) (rd rs2 : Reg) : Code :=
  .c16 (f4 ++ regBits rd ++ regBits rs2 ++ 2#2)

/-- The code of an instruction, from the same formats and tables (30 R183 to R199). -/
def encode : Instr → Code
  | .lui rd imm => encU 0x37#7 rd imm
  | .auipc rd imm => encU 0x17#7 rd imm
  | .jal rd imm => encJ rd imm
  | .jalr rd rs1 imm => encI 0#3 0x67#7 rd rs1 imm
  | .beq rs1 rs2 imm => encB 0#3 rs1 rs2 imm
  | .bne rs1 rs2 imm => encB 1#3 rs1 rs2 imm
  | .blt rs1 rs2 imm => encB 4#3 rs1 rs2 imm
  | .bge rs1 rs2 imm => encB 5#3 rs1 rs2 imm
  | .bltu rs1 rs2 imm => encB 6#3 rs1 rs2 imm
  | .bgeu rs1 rs2 imm => encB 7#3 rs1 rs2 imm
  | .lb rd rs1 imm => encI 0#3 0x03#7 rd rs1 imm
  | .lh rd rs1 imm => encI 1#3 0x03#7 rd rs1 imm
  | .lw rd rs1 imm => encI 2#3 0x03#7 rd rs1 imm
  | .lbu rd rs1 imm => encI 4#3 0x03#7 rd rs1 imm
  | .lhu rd rs1 imm => encI 5#3 0x03#7 rd rs1 imm
  | .sb rs2 rs1 imm => encS 0#3 rs2 rs1 imm
  | .sh rs2 rs1 imm => encS 1#3 rs2 rs1 imm
  | .sw rs2 rs1 imm => encS 2#3 rs2 rs1 imm
  | .addi rd rs1 imm => encI 0#3 0x13#7 rd rs1 imm
  | .slti rd rs1 imm => encI 2#3 0x13#7 rd rs1 imm
  | .sltiu rd rs1 imm => encI 3#3 0x13#7 rd rs1 imm
  | .xori rd rs1 imm => encI 4#3 0x13#7 rd rs1 imm
  | .ori rd rs1 imm => encI 6#3 0x13#7 rd rs1 imm
  | .andi rd rs1 imm => encI 7#3 0x13#7 rd rs1 imm
  | .slli rd rs1 k => encShift 0#7 1#3 rd rs1 k
  | .srli rd rs1 k => encShift 0#7 5#3 rd rs1 k
  | .srai rd rs1 k => encShift 0x20#7 5#3 rd rs1 k
  | .add rd rs1 rs2 => encR 0#7 0#3 0x33#7 rd rs1 rs2
  | .sub rd rs1 rs2 => encR 0x20#7 0#3 0x33#7 rd rs1 rs2
  | .sll rd rs1 rs2 => encR 0#7 1#3 0x33#7 rd rs1 rs2
  | .slt rd rs1 rs2 => encR 0#7 2#3 0x33#7 rd rs1 rs2
  | .sltu rd rs1 rs2 => encR 0#7 3#3 0x33#7 rd rs1 rs2
  | .xor rd rs1 rs2 => encR 0#7 4#3 0x33#7 rd rs1 rs2
  | .srl rd rs1 rs2 => encR 0#7 5#3 0x33#7 rd rs1 rs2
  | .sra rd rs1 rs2 => encR 0x20#7 5#3 0x33#7 rd rs1 rs2
  | .or rd rs1 rs2 => encR 0#7 6#3 0x33#7 rd rs1 rs2
  | .and rd rs1 rs2 => encR 0#7 7#3 0x33#7 rd rs1 rs2
  | .mul rd rs1 rs2 => encR 1#7 0#3 0x33#7 rd rs1 rs2
  | .mulh rd rs1 rs2 => encR 1#7 1#3 0x33#7 rd rs1 rs2
  | .mulhsu rd rs1 rs2 => encR 1#7 2#3 0x33#7 rd rs1 rs2
  | .mulhu rd rs1 rs2 => encR 1#7 3#3 0x33#7 rd rs1 rs2
  | .div rd rs1 rs2 => encR 1#7 4#3 0x33#7 rd rs1 rs2
  | .divu rd rs1 rs2 => encR 1#7 5#3 0x33#7 rd rs1 rs2
  | .rem rd rs1 rs2 => encR 1#7 6#3 0x33#7 rd rs1 rs2
  | .remu rd rs1 rs2 => encR 1#7 7#3 0x33#7 rd rs1 rs2
  | .fence pred succ => .c32 (0#4 ++ pred ++ succ ++ 0x0000F#20)
  | .fenceI => .c32 0x0000100F#32
  | .ecall => .c32 0x00000073#32
  | .ebreak => .c32 0x00100073#32
  | .mret => .c32 0x30200073#32
  | .wfi => .c32 0x10500073#32
  | .csrrw rd csr rs1 => encCsr 1#3 rd csr (regBits rs1)
  | .csrrs rd csr rs1 => encCsr 2#3 rd csr (regBits rs1)
  | .csrrc rd csr rs1 => encCsr 3#3 rd csr (regBits rs1)
  | .csrrwi rd csr imm => encCsr 5#3 rd csr imm
  | .csrrsi rd csr imm => encCsr 6#3 rd csr imm
  | .csrrci rd csr imm => encCsr 7#3 rd csr imm
  | .icacheIall => .c32 0x0100000B#32
  | .icacheIpa rs1 => .c32 (0x038#12 ++ regBits rs1 ++ 0x000B#15)
  | .cAddi4spn rd imm => .c16 (0#3 ++ imm.extractLsb' 2 2 ++ imm.extractLsb' 4 4 ++ imm.extractLsb' 0 1
      ++ imm.extractLsb' 1 1 ++ cRegBits rd ++ 0#2)
  | .cLw rd rs1 imm => encCl 2#3 rd rs1 imm
  | .cSw rs2 rs1 imm => encCl 6#3 rs2 rs1 imm
  | .cNop => .c16 1#16
  | .cAddi rd imm => encCi 0#3 1#2 rd imm
  | .cJal imm => encCj 1#3 imm
  | .cLi rd imm => encCi 2#3 1#2 rd imm
  | .cAddi16sp imm => .c16 (3#3 ++ imm.extractLsb' 5 1 ++ 2#5 ++ imm.extractLsb' 0 1 ++ imm.extractLsb' 2 1
      ++ imm.extractLsb' 3 2 ++ imm.extractLsb' 1 1 ++ 1#2)
  | .cLui rd imm => encCi 3#3 1#2 rd imm
  | .cSrli rd k => encCbAlu 0#1 0#2 rd k
  | .cSrai rd k => encCbAlu 0#1 1#2 rd k
  | .cAndi rd imm => encCbAlu (imm.extractLsb' 5 1) 2#2 rd (imm.extractLsb' 0 5)
  | .cSub rd rs2 => encCa 0#2 rd rs2
  | .cXor rd rs2 => encCa 1#2 rd rs2
  | .cOr rd rs2 => encCa 2#2 rd rs2
  | .cAnd rd rs2 => encCa 3#2 rd rs2
  | .cJ imm => encCj 5#3 imm
  | .cBeqz rs1 imm => encCb 6#3 rs1 imm
  | .cBnez rs1 imm => encCb 7#3 rs1 imm
  | .cSlli rd k => .c16 (0#4 ++ regBits rd ++ k ++ 2#2)
  | .cLwsp rd imm => .c16 (2#3 ++ imm.extractLsb' 3 1 ++ regBits rd ++ imm.extractLsb' 0 3 ++ imm.extractLsb' 4 2 ++ 2#2)
  | .cJr rs1 => encCr 8#4 rs1 0
  | .cMv rd rs2 => encCr 8#4 rd rs2
  | .cEbreak => .c16 0x9002#16
  | .cJalr rs1 => encCr 9#4 rs1 0
  | .cAdd rd rs2 => encCr 9#4 rd rs2
  | .cSwsp rs2 imm => .c16 (6#3 ++ imm.extractLsb' 0 4 ++ imm.extractLsb' 4 2 ++ regBits rs2 ++ 2#2)

end Sys2Proof
end

