-- ==== Sys2Proof/Machine/State.lean ====
section
/-! DEFINITION. The state of the machine, the reasons a step can stop, and the state after reset. Every piece of state of
10 R20 to R105 is a field; INVENTORY.md lists each with its rule and its reset value. Memory: Machine/Memory.lean. -/

namespace Sys2Proof.Machine

/-- The two privilege modes (10 R29); 2'b01 and 2'b10 never occur. -/
inductive Priv where
  | machine | user
  deriving DecidableEq, Repr

/-- The kinds of memory access the checks tell apart (20 R152). -/
inductive AccessKind where
  | fetch | load | store
  deriving DecidableEq, Repr

/-- The sizes of an access: 1, 2 and 4 bytes (20 R122). -/
inductive AccessSize where
  | byte | half | word
  deriving DecidableEq, Repr

/-- The four fields of MSTATUS (10 R40); MPP and MPIE are also MCAUSE.MPP and MCAUSE.MPIE (10 R56). -/
structure Status where
  mie : Bool
  mpie : Bool
  mpp : Priv
  mprv : Bool
  deriving DecidableEq, Repr

/-- The fields of MCAUSE that are its own storage (10 R55). -/
structure Cause where
  interrupt : Bool
  minhv : Bool
  mpil : Byte
  code : BitVec 12
  deriving DecidableEq, Repr

/-- The five fields of MEXSTATUS (10 R85). `lpmdWoken` is the model's: the core has woken since LPMD was last written, so
a read of LPMD is open (10 R87, log 12). -/
structure ExStatus where
  softRst : BitVec 2
  lpmd : BitVec 2
  lpmdWoken : Bool
  wfe : Bool
  exptVld : Bool
  lockup : Bool
  deriving DecidableEq, Repr

/-- MNMICAUSE (10 R91). -/
structure NmiSaved where
  intr : Bool
  mpp : BitVec 2
  mpie : Bool
  vector : BitVec 12
  deriving DecidableEq, Repr

/-- The control registers with storage, but for the counters and the PMP registers. -/
structure Csrs where
  status : Status
  /-- MTVEC[31:6] (10 R46) -/
  mtvecBase : BitVec 26
  /-- the model's: MTVEC[5:2] is open since a non-zero write (10 R46, log 11) -/
  mtvecLowOpen : Bool
  counterCy : Bool
  counterTm : Bool
  counterIr : Bool
  /-- MTVT[31:6] (10 R49) -/
  mtvt : BitVec 26
  mscratch : Word
  mepc : Word
  cause : Cause
  mtval : Word
  /-- MINTSTATUS.MIL (10 R60) -/
  mil : Byte
  /-- MXSTATUS.THEADISAEE (10 R82) -/
  theadisaee : Bool
  /-- MHCR.IE (10 R83) -/
  icacheEnable : Bool
  ex : ExStatus
  nmi : NmiSaved
  mnmipc : Word
  deriving DecidableEq, Repr

/-- PMPCFG0 to 3 as 16 bytes, PMPADDR0 to 15 (10 R63, R64). -/
structure Pmp where
  cfg : Vector Byte 16
  addr : Vector Word 16
  deriving DecidableEq, Repr

/-- The CLINT registers with storage (60 R456, R457). -/
structure Clint where
  msip : Bool
  mtimecmp : BitVec 64
  deriving DecidableEq, Repr

/-- One interrupt source of the CLIC (60 R442, R443, R465 to R468). `edge` and `held` are the model's: whether the
sampling of this step saw an edge, and whether the pending bit was already set before it; host events, which come before
the sampling, find both false (log 15). -/
structure ClicSource where
  id : Nat
  ip : Bool
  ie : Bool
  trig : BitVec 2
  shv : Bool
  ctl : Byte
  prev : Bool
  edge : Bool
  held : Bool
  deriving DecidableEq, Repr

/-- The CLIC (60 R461 to R468). -/
structure Clic where
  nlbits : BitVec 4
  mth : Byte
  sources : List ClicSource
  deriving DecidableEq, Repr

/-- The instruction cache of 20 R173: a map from line number to an optional copy, the first entry of a line deciding.
While `unspecified`, a line without an entry may hold anything (20 R171, log 13). -/
structure Icache where
  unspecified : Bool
  lines : List (Nat × Option (Vector Byte 16))
  deriving DecidableEq, Repr

/-- The registers of the debug unit that the manual describes (60 R503, R504; log 24): HACR, HCR.DDAE, the fields of DACSR
but for TRANS BUSY (`Had.transBusy`), DATR, and the data DARWR returns. -/
structure Had where
  hacr : Byte
  ddae : Bool
  transMode : BitVec 3
  transSize : BitVec 3
  transProt : BitVec 4
  error : Bool
  dataPhase : Bool
  datr : Word
  data : Word
  deriving DecidableEq, Repr

/-- One row of the bus error oracle: accesses of this kind and size from `lo` to `hi` fail (20 R136, D40; log 26). -/
structure BusErrorRow where
  lo : Word
  hi : Word
  kind : AccessKind
  size : AccessSize
  deriving DecidableEq, Repr

/-- The inputs of the core at one step boundary (60 R410, 70 R550). -/
structure Inputs where
  /-- `pad_clic_int_vld[239:0]` -/
  lines : BitVec 240
  /-- the level of `pad_cpu_ext_int_b`, a request when low (60 R443, log 32) -/
  extIntB : Bool
  /-- `nmi_req` -/
  nmiReq : Bool
  /-- `ext_event` -/
  extEvent : Bool
  /-- `pad_cpu_sys_cnt[63:0]` -/
  sysCnt : BitVec 64
  /-- which accesses the bus answers with ERROR -/
  busErrors : List BusErrorRow
  deriving DecidableEq, Repr

/-- A state the debugger gives the machine: everything but the configuration, the pins, the debug unit's own registers and
the model's bookkeeping of host actions and draws; of memory, the bytes it changes (60 R500; log 23). -/
structure Snapshot where
  regs : Vector Word 16
  pc : Word
  priv : Priv
  csr : Csrs
  mcycle : BitVec 64
  minstret : BitVec 64
  mcpuidNext : Nat
  pmp : Pmp
  clint : Clint
  clic : Clic
  icache : Icache
  stale : List (Nat × Half)
  sleeping : Bool
  nmiPending : Bool
  lockupNmi : Bool
  mem : List (Word × Byte)
  deriving DecidableEq, Repr

/-- What the host can do between two steps (70 R550, 60 R500 to R505; log 9, 23, 24). The `debug` events other than the
request act only in debug mode. -/
inductive HostEvent where
  /-- the inputs take these levels; the counter never decreases but for its wrap (60 R458) -/
  | inputs (i : Inputs)
  /-- the reset input is applied and released (70 R520); the platform then supplies this counter value (70 R524) -/
  | reset (sysCnt : BitVec 64)
  /-- a debug request (60 R500) -/
  | debugRequest
  /-- resume at a pc (60 R435) -/
  | debugExit (resumePc : Word)
  /-- the debugger writes a general register -/
  | debugReg (r : Reg) (v : Word)
  /-- the debugger writes a control register by number -/
  | debugCsr (number : BitVec 12) (v : Word)
  /-- the debugger writes MEXSTATUS.EXPT_VLD (10 R89) -/
  | debugExptVld (v : Bool)
  /-- the debugger sets the privilege mode (10 R29) -/
  | debugPriv (p : Priv)
  /-- the debugger replaces the state (60 R500) -/
  | debugReplace (m : Snapshot)
  /-- the debugger stores to an address -/
  | debugStore (addr : Word) (size : AccessSize) (v : Word)
  /-- another bus master, or a device, gives a byte of memory a value -/
  | masterWrite (addr : Word) (v : Byte)
  /-- the reset of the debug unit (60 R503) -/
  | hadReset
  /-- the debugger writes HCR -/
  | hadHcr (v : Word)
  /-- the debugger writes DATR -/
  | hadDatr (v : Word)
  /-- the debugger writes DACSR -/
  | hadDacsr (v : Word)
  /-- the debugger writes DARWR -/
  | hadWriteDarwr (v : Word)
  /-- the debugger reads DARWR -/
  | hadReadDarwr
  deriving DecidableEq, Repr

/-- What the next step is, counted from reset: 70 R521 has a rule of its own for the first step. -/
inductive SinceReset where
  /-- no step has been taken -/
  | fresh
  /-- this step is the first -/
  | first
  /-- the first step is over -/
  | later
  deriving DecidableEq, Repr

/-- The state of the machine. -/
structure State where
  /-- the configuration; no step changes it -/
  cfg : Config
  /-- x0 to x15; slot 0 is never read or written (10 R20, R21) -/
  regs : Vector Word 16
  pc : Word
  priv : Priv
  csr : Csrs
  /-- MCYCLEH:MCYCLE as last read or written (10 R65) -/
  mcycle : BitVec 64
  /-- MINSTRETH:MINSTRET (10 R66) -/
  minstret : BitVec 64
  /-- the model's: position in the MCPUID read sequence (10 R99, log 19) -/
  mcpuidNext : Nat
  pmp : Pmp
  clint : Clint
  clic : Clic
  icache : Icache
  /-- earlier values of parcels stored to since the last FENCE.I (20 R167, log 14) -/
  stale : List (Nat × Half)
  /-- low-power state (10 R105) -/
  sleeping : Bool
  /-- (10 R103) -/
  nmiPending : Bool
  /-- (10 R104) -/
  lockupNmi : Bool
  /-- debug mode (60 R500) -/
  debugMode : Bool
  /-- the model's: whether this is the first step after reset (70 R521, log 18) -/
  sinceReset : SinceReset
  had : Had
  /-- memory: the bytes that differ from what an unlisted address reads as -/
  mem : List Host.Cell
  /-- the inputs at this boundary -/
  inputs : Inputs
  /-- the model's: what the host does at this and the following boundaries (log 9) -/
  schedule : List (List HostEvent)
  /-- the model's: how many open values have been drawn (log 10) -/
  draws : Nat
  deriving DecidableEq, Repr

/-- The stops that are faults. -/
inductive Fault where
  /-- Raised by `step` when the base and mask of the instruction bus window are no row of table 8.1 (20 R131; log 31).
  Safe: the spec has no such core. -/
  | busWindow
  /-- Raised by `step` when the configured instruction bus window meets the TCIP region: "CPU 行为将不可预测"
  (20 R133, U1; log 31). Safe: the spec gives such a core no behaviour. -/
  | busOverlap
  deriving DecidableEq, Repr

/-- The stops that are refusals. -/
inductive Refusal where
  /-- An instruction without a meaning. Raised by no arm of `exec`. Safe. -/
  | notModelled (mnemonic : String)
  /-- Raised by `step`: a halfword of 30 R202 under `RVC_CONSTRAINT_VIOLATION = refuse`. Safe: the spec refuses it. -/
  | rvcConstraint
  /-- Raised by a fetch from the TCIP region (20 R134, R162; log 18). Safe: the spec refuses it. -/
  | tcipFetch
  /-- Raised by a load or store: a TCIP access of a width the register does not support, or to a reserved offset
  (20 R163, U10, U23). Safe: the spec refuses it. -/
  | tcipAccess
  /-- Raised by a CSR instruction: a form of access to MNXTI, MSCRATCHCSW or MSCRATCHCSWL that the manual does not describe
  (43 R308, 10 R51, R52, U21; log 20). Safe: the spec refuses it. -/
  | csrForm
  /-- Raised by the entry of a vectored interrupt whose table word cannot be read (60 R453, U22). Safe: the spec refuses it. -/
  | vectorFetch
  /-- Raised by a DDMA transfer with a reserved mode or size code (60 R504, U14). Safe: the spec refuses it. -/
  | ddmaReserved
  deriving DecidableEq, Repr

/-- The interrupt ids that exist (60 R442). -/
def sourceIds (c : Config) : List Nat :=
  [3, 7, 11] ++ (List.range c.numExt).map (16 + ·)

/-- A CLIC source after reset (10 R110): disabled, level, not vectored, implemented CTL bits 0, source inactive. -/
def ClicSource.afterReset (c : Config) (id : Nat) : ClicSource where
  id := id
  ip := false
  ie := false
  trig := 0
  shv := false
  ctl := 0xFF#8 >>> c.ctlBits.toNat
  prev := false
  edge := false
  held := false

/-- The control registers after reset (10 R110, 70 R522). MSCRATCH, MEPC, MTVAL, MCOUNTEREN, MNMICAUSE and MNMIPC, for
which the spec gives no value, are 0 (log 2). -/
def Csrs.afterReset : Csrs where
  status := { mie := false, mpie := false, mpp := .machine, mprv := false }
  mtvecBase := 0
  mtvecLowOpen := false
  counterCy := false
  counterTm := false
  counterIr := false
  mtvt := 0
  mscratch := 0
  mepc := 0
  cause := { interrupt := false, minhv := false, mpil := 0, code := 0 }
  mtval := 0
  mil := 0
  theadisaee := false
  icacheEnable := false
  ex := { softRst := 0, lpmd := 0, lpmdWoken := false, wfe := true, exptVld := false, lockup := false }
  nmi := { intr := false, mpp := 0, mpie := false, vector := 0 }
  mnmipc := 0

/-- The debug unit after its own reset (60 R503); the spec gives a value for HACR only (log 24). -/
def Had.afterReset : Had where
  hacr := 0x82
  ddae := false
  transMode := 0
  transSize := 0
  transProt := 0
  error := false
  dataPhase := false
  datr := 0
  data := 0

/-- The input pins at their inactive levels, the counter at 0, no bus errors (log 9). -/
def Inputs.idle : Inputs where
  lines := 0
  extIntB := true
  nmiReq := false
  extEvent := false
  sysCnt := 0
  busErrors := []

/-- The machine right after reset under configuration `c` (10 R110, 70 R520 to R523). Registers and memory without a
reset value: log 1, 2, 3. -/
def State.resetWith (c : Config) : State where
  cfg := c
  regs := Vector.replicate 16 0
  pc := c.resetAddr
  priv := .machine
  csr := .afterReset
  mcycle := 0
  minstret := 0
  mcpuidNext := 0
  pmp := { cfg := Vector.replicate 16 0, addr := Vector.replicate 16 0 }
  clint := { msip := false, mtimecmp := 0xFFFFFFFFFFFFFFFF }
  clic := { nlbits := 0, mth := 0, sources := (sourceIds c).map (ClicSource.afterReset c) }
  icache := { unspecified := c.icacheSize != .none, lines := [] }
  stale := []
  sleeping := false
  nmiPending := false
  lockupNmi := false
  debugMode := false
  sinceReset := .fresh
  had := .afterReset
  mem := []
  inputs := .idle
  schedule := []
  draws := 0

/-- The machine right after reset under the reference configuration (log 4). -/
def State.reset : State := State.resetWith .reference

end Sys2Proof.Machine
end

