-- ==== Sys2Proof/Machine/Memory.lean ====
section
/-! DEFINITION. Memory as a canonical list of bytes (20 R120, R121) and its little-endian reads and writes. -/

namespace Sys2Proof.Machine

/-- What an address that is not listed reads as (log 3). -/
def unlistedByte : Byte := 0

/-- The byte at an address. -/
def Memory.read : List Host.Cell → Nat → Byte
  | [], _ => unlistedByte
  | (b, v) :: rest, a => if b = a then v else Memory.read rest a

/-- Memory with one byte changed, in canonical form. -/
def Memory.write (m : List Host.Cell) (a : Nat) (v : Byte) : List Host.Cell :=
  m.filter (fun c => c.1 < a) ++ (if v = unlistedByte then [] else [(a, v)]) ++ m.filter (fun c => a < c.1)

/-- The canonical form: addresses strictly rising and below 2^32, no entry that reads as an unlisted address does. -/
abbrev Memory.wf (m : List Host.Cell) : Prop :=
  m.Pairwise (fun c d => c.1 < d.1) ∧ ∀ c ∈ m, c.2 ≠ unlistedByte ∧ c.1 < 2 ^ 32

/-- `n` bytes from `a` upward as a little-endian number (20 R120); addresses wrap at 2^32 (20 R121). -/
def Memory.readLE (m : List Host.Cell) (a : Word) : Nat → Word
  | 0 => 0
  | n + 1 => (Memory.readLE m (a + 1) n <<< 8) ||| (Memory.read m a.toNat).setWidth 32

/-- Store the low `n` bytes of `v` at `a` upward, the least significant first (20 R120, R161). -/
def Memory.writeLE (m : List Host.Cell) (a : Word) : Nat → Word → List Host.Cell
  | 0, _ => m
  | n + 1, v => Memory.writeLE (Memory.write m a.toNat (v.setWidth 8)) (a + 1) n (v >>> 8)

/-- The 16-bit parcel at `a` (30 R180). -/
def Memory.readHalf (m : List Host.Cell) (a : Word) : Half :=
  Memory.read m (a + 1).toNat ++ Memory.read m a.toNat

/-- How many bytes an access covers (20 R122). -/
def AccessSize.bytes : AccessSize → Nat
  | .byte => 1
  | .half => 2
  | .word => 4

/-- The byte of memory at an address. -/
def State.byteAt (s : State) (a : Word) : Byte := Memory.read s.mem a.toNat

/-- The address of the parcel that contains `a`. -/
def parcelOf (a : Word) : Word := a &&& 0xFFFFFFFE

/-- Remember the value a parcel had before a store, once per value (20 R167, log 14). -/
def rememberParcel (old new : List Host.Cell) (a : Word) (stale : List (Nat × Half)) : List (Nat × Half) :=
  if Memory.readHalf old a = Memory.readHalf new a ∨ (a.toNat, Memory.readHalf old a) ∈ stale then stale
  else (a.toNat, Memory.readHalf old a) :: stale

/-- A store of another agent than the hart: the bytes change; only a cached copy can hold the old ones, because nothing but
the cache is kept from the new ones (20 R176, log 14). -/
def State.writeBytes (s : State) (a : Word) (size : AccessSize) (v : Word) : State :=
  { s with mem := Memory.writeLE s.mem a size.bytes v }

/-- A store of the hart: the bytes change, and the parcels they lie in may still be fetched as they were (20 R161 step 5,
R167). -/
def State.storeBytes (s : State) (a : Word) (size : AccessSize) (v : Word) : State :=
  let new := Memory.writeLE s.mem a size.bytes v
  let stale := rememberParcel s.mem new (parcelOf a) s.stale
  { s with
    mem := new
    stale := if size = .word then rememberParcel s.mem new (parcelOf a + 2) stale else stale }

end Sys2Proof.Machine
end

