-- ==== Sys2Proof/Machine/Pmp.lean ====
section
/-! DEFINITION. Physical memory protection (20 R141 to R153): matching, priority, decision, and the effective privilege. -/

namespace Sys2Proof.Machine

/-- A PMP entry with the address register below it, which is 0 for entry 0 (20 R144). -/
structure PmpEntry where
  cfg : Byte
  addr : Word
  below : Word
  deriving DecidableEq, Repr

/-- Field L (10 R63). -/
def pmpLocked (cfg : Byte) : Bool := cfg.getLsbD 7

/-- Field A (10 R63). -/
def pmpMode (cfg : Byte) : BitVec 2 := cfg.extractLsb' 3 2

/-- The permission bit an access needs: R for a load, W for a store, X for a fetch (20 R149). -/
def pmpPermits (cfg : Byte) : AccessKind → Bool
  | .load => cfg.getLsbD 0
  | .store => cfg.getLsbD 1
  | .fetch => cfg.getLsbD 2

/-- `{PMPADDR[29:0], 2'b00}` (20 R144). -/
def pmpBound (addr : Word) : Word := addr.extractLsb' 0 30 ++ 0#2

/-- The low bits of PMPADDR that a NAPOT entry does not compare: its trailing ones and the zero above them (20 R146). -/
def napotMask (addr : Word) : Word := addr ^^^ (addr + 1)

/-- Whether the entry matches address `a` (20 R143 to R146). -/
def PmpEntry.hits (e : PmpEntry) (a : Word) : Bool :=
  if pmpMode e.cfg = 0#2 then false
  else if pmpMode e.cfg = 1#2 then pmpBound e.below ≤ a && a < pmpBound e.addr
  else if pmpMode e.cfg = 2#2 then a &&& 0xFFFFFFFC == pmpBound e.addr
  else ((a >>> 2) ^^^ e.addr) &&& ~~~ napotMask e.addr &&& 0x3FFFFFFF == 0

/-- What the matching entry decides (20 R149). -/
def PmpEntry.allows (e : PmpEntry) (p : Priv) (kind : AccessKind) : Bool :=
  (!pmpLocked e.cfg && p == .machine) || pmpPermits e.cfg kind

/-- The entries in the order of their numbers. -/
def Pmp.entries (p : Pmp) (count : Nat) : List PmpEntry :=
  (List.zipWith (fun (c : Byte) (ab : Word × Word) => (⟨c, ab.1, ab.2⟩ : PmpEntry)) p.cfg.toList
    (p.addr.toList.zip (0 :: p.addr.toList))).take count

/-- The lowest-numbered matching entry decides; without one, machine privilege passes and user privilege does not
(20 R148, R151). -/
def pmpScan (p : Priv) (kind : AccessKind) (a : Word) : List PmpEntry → Bool
  | [] => p == .machine
  | e :: rest => if e.hits a then e.allows p kind else pmpScan p kind a rest

/-- `PmpCheck`: nothing is checked on a core without PMP entries (20 R152, D13). -/
def State.pmpAllows (s : State) (p : Priv) (kind : AccessKind) (a : Word) : Bool :=
  s.cfg.pmpEntries == .none || pmpScan p kind a (s.pmp.entries s.cfg.pmpEntries.toNat)

/-- The effective privilege of a load or store (20 R150). -/
def State.dataPriv (s : State) : Priv := if s.csr.status.mprv then s.csr.status.mpp else s.priv

end Sys2Proof.Machine
end

