-- ==== Sys2Proof/Machine/Bus.lean ====
section
/-! DEFINITION. Which bus an address goes to, and which configurations of the instruction bus window are legal
(20 R130 to R134, table 8.1). -/

namespace Sys2Proof.Machine

/-- The TCIP region 0xE0000000 to 0xEFFFFFFF (20 R130). -/
def inTcip (a : Word) : Bool := a.extractLsb' 28 4 == 0xE#4

/-- The address is in the instruction bus window (20 R131). -/
def inBusWindow (c : Config) (a : Word) : Bool := a.extractLsb' 20 12 &&& c.iahbMask == c.iahbBase &&& c.iahbMask

/-- The base and mask are a row of table 8.1: the mask is ones above `k` zeros, a window of 2^k MiB, and the `k` low bits
of the base are 0 (20 R131). -/
def busWindowLegal (c : Config) : Bool :=
  (List.range 13).any fun k => c.iahbMask == BitVec.allOnes 12 <<< k && c.iahbBase &&& ~~~ c.iahbMask == 0#12

/-- The instruction bus window meets the TCIP region, whose addresses have 0xE in bits 31:28: some value of bits 31:20
agrees with both (20 R133). -/
def busOverlap (c : Config) : Bool :=
  (0xE00#12 ^^^ c.iahbBase) &&& c.iahbMask &&& 0xF00#12 == 0#12

/-- The three interfaces of the core (20 R130 to R132). -/
inductive Bus where
  | tcip | instruction | system
  deriving DecidableEq, Repr

/-- The interface that answers an address, for a fetch and for a data access alike (20 R132, R134). -/
def busOf (c : Config) (a : Word) : Bus :=
  if inTcip a then .tcip else if inBusWindow c a then .instruction else .system

end Sys2Proof.Machine
end

