-- ==== Sys2Proof/Machine/Clic.lean ====
section
/-! DEFINITION. The interrupt controller: source signals, pending bits, arbitration, request and take conditions
(60 R442 to R446), and the acknowledgement that clears an edge-triggered pending bit (60 R451, 10 R58). -/

namespace Sys2Proof.Machine

/-- Edge-triggered: trig[0] (60 R467). -/
def ClicSource.isEdge (x : ClicSource) : Bool := x.trig.getLsbD 0

/-- The source signal `src[i]` (60 R443, R456, R459, R460). -/
def State.sourceSignal (s : State) (id : Nat) : Bool :=
  if id = 3 then s.clint.msip
  else if id = 7 then BitVec.ule s.clint.mtimecmp s.inputs.sysCnt
  else if id = 11 then !s.inputs.extIntB
  else s.inputs.lines.getLsbD (id - 16)

/-- The edge the source is configured for, between the previous level and this one (60 R443). -/
def ClicSource.seesEdge (x : ClicSource) (now : Bool) : Bool :=
  x.isEdge && (if x.trig.getLsbD 1 then x.prev && !now else !x.prev && now)

/-- Sample one source: a level source follows its signal, an edge source collects the selected edge (60 R443). -/
def ClicSource.sample (x : ClicSource) (now : Bool) : ClicSource :=
  { x with
    ip := if x.isEdge then x.ip || x.seesEdge now else now
    edge := x.seesEdge now
    held := x.isEdge && x.ip
    prev := now }

/-- One step further from reset (70 R521). -/
def SinceReset.next : SinceReset → SinceReset
  | .fresh => .first
  | .first | .later => .later

/-- Sample every source and the NMI request (60 R415 item 1); the step counts. -/
def State.sample (s : State) : State :=
  { s with
    sinceReset := s.sinceReset.next
    clic := { s.clic with sources := s.clic.sources.map fun x => x.sample (s.sourceSignal x.id) }
    nmiPending := s.nmiPending || s.inputs.nmiReq }

/-- The edges seen are those of an earlier step, so that a write to a pending bit before the sampling is not taken for one in
the step of the edge (60 R443, R465; log 15). -/
def State.forgetEdges (s : State) : State :=
  { s with clic := { s.clic with sources := s.clic.sources.map fun x => { x with edge := false, held := false } } }

/-- The pending bit: the signal itself for a level source, the stored bit for an edge source (60 R443, R465). -/
def State.pending (s : State) (x : ClicSource) : Bool := if x.isEdge then x.ip else s.sourceSignal x.id

/-- Takes part in arbitration (60 R445). -/
def State.isCandidate (s : State) (x : ClicSource) : Bool := s.pending x && x.ie && 0#8 < x.ctl

/-- The larger CLICINTCTL wins, among equals the larger id (60 R445). -/
def arbitrate (best : Option ClicSource) (x : ClicSource) : Option ClicSource :=
  match best with
  | none => some x
  | some b => if b.ctl < x.ctl ∨ (b.ctl = x.ctl ∧ b.id ≤ x.id) then some x else some b

/-- The interrupt the CLIC presents (60 R445). -/
def State.presented (s : State) : Option ClicSource :=
  (s.clic.sources.filter s.isCandidate).foldl arbitrate none

/-- The 8-bit level: the top `min(nlbits, CLICINTCTLBITS)` bits of CLICINTCTL, the rest 1 (60 R444). -/
def State.levelOf (s : State) (x : ClicSource) : Byte :=
  x.ctl ||| (0xFF#8 >>> min s.clic.nlbits.toNat s.cfg.ctlBits.toNat)

/-- Inside an NMI handler: MCAUSE.Interrupt = 0 and ExceptionCode = 24 (10 R103, 60 R472). -/
def State.inNmi (s : State) : Bool := !s.csr.cause.interrupt && s.csr.cause.code == 24

/-- `InterruptRequest()`: the presented interrupt, if its level is above MINTTHRESH (60 R446). -/
def State.interruptRequest (s : State) : Option ClicSource :=
  match s.presented with
  | none => none
  | some x => if s.clic.mth < s.levelOf x then some x else none

/-- MSTATUS.MIE lets interrupts through, or the mode does (60 R446, D23). -/
def State.interruptsEnabled (s : State) : Bool :=
  s.csr.status.mie || (s.cfg.uModeIgnoresMie && s.priv == .user)

/-- `InterruptTakeCondition()`: the interrupt that is taken at this boundary (60 R446). -/
def State.interruptToTake (s : State) : Option ClicSource :=
  match s.interruptRequest with
  | none => none
  | some x => if s.csr.mil < s.levelOf x && s.interruptsEnabled && !s.inNmi then some x else none

/-- `WakeCondition()` but for the debug request, which is an event of its own (60 R511). -/
def State.wakes (s : State) : Bool :=
  s.nmiPending ||
    match s.interruptRequest with
    | none => s.csr.ex.wfe && s.inputs.extEvent
    | some x => s.csr.ex.wfe || decide (s.csr.mil < s.levelOf x)

/-- Replace the source with this id. -/
def State.setSource (s : State) (id : Nat) (f : ClicSource → ClicSource) : State :=
  { s with clic := { s.clic with sources := s.clic.sources.map fun x => if x.id = id then f x else x } }

/-- The source with this id, if it exists (60 R442). -/
def State.source? (s : State) (id : Nat) : Option ClicSource := s.clic.sources.find? (fun x => x.id == id)

/-- Clear an edge-triggered pending bit on acknowledgement; an edge seen in this same step behind an older pending one
stays pending (60 R443, R451; log 15). -/
def ClicSource.acknowledge (x : ClicSource) : ClicSource :=
  if x.isEdge then { x with ip := x.edge && x.held } else x

end Sys2Proof.Machine
end

