-- ==== Sys2Proof/Machine/Tcip.lean ====
section
/-! DEFINITION. The memory-mapped registers of the CLINT and the CLIC (60 R455 to R468) and how loads and stores reach
them (20 R163). -/

namespace Sys2Proof.Machine

/-- A register of the region. -/
inductive TcipReg where
  | msip | mtimecmpLo | mtimecmpHi | mtimeLo | mtimeHi | cliccfg | clicinfo | minththresh
  /-- the four byte registers of an interrupt id, from this byte on -/
  | source (id : Nat) (byte : Nat)
  deriving DecidableEq, Repr

/-- The register an access names; `none` for a reserved offset and for a width the register does not support
(20 R163, 60 R455, R461). -/
def tcipReg? (a : Word) (size : AccessSize) : Option TcipReg :=
  if 0xE0801000#32 ≤ a ∧ a ≤ 0xE08013FF#32 then
    some (.source ((a - 0xE0801000#32) >>> 2).toNat (a &&& 3#32).toNat)
  else if size ≠ .word then none
  else if a = 0xE0000000#32 then some .msip
  else if a = 0xE0004000#32 then some .mtimecmpLo
  else if a = 0xE0004004#32 then some .mtimecmpHi
  else if a = 0xE000BFF8#32 then some .mtimeLo
  else if a = 0xE000BFFC#32 then some .mtimeHi
  else if a = 0xE0800000#32 then some .cliccfg
  else if a = 0xE0800004#32 then some .clicinfo
  else if a = 0xE0800008#32 then some .minththresh
  else none

/-- A field of `v` placed at bit `pos` of a word. -/
def placeField {w : Nat} (v : BitVec w) (pos : Nat) : Word := v.setWidth 32 <<< pos

/-- CLICINFO (60 R463). -/
def clicinfoWord (c : Config) : Word :=
  placeField (BitVec.ofNat 13 (16 + c.numExt)) c.layout.clicinfoNum |||
    placeField c.clicinfoVersion c.layout.clicinfoVersion |||
    placeField (BitVec.ofNat 4 c.ctlBits.toNat) c.layout.clicinfoBits

/-- CLICINTATTR as it reads: mode tied to 2'b11 (60 R467). -/
def ClicSource.attr (x : ClicSource) : Byte := 0b11000#5 ++ x.trig ++ boolBit x.shv

/-- The four byte registers of a source as one word, CTL ATTR IE IP from the top (60 R461). -/
def State.sourceWord (s : State) (x : ClicSource) : Word :=
  x.ctl ++ x.attr ++ (0#7 ++ boolBit x.ie) ++ (0#7 ++ boolBit (s.pending x))

/-- What a register reads as, before it is cut to the access (60 R455 to R468). An id that does not exist reads 0. -/
def State.tcipValue (s : State) : TcipReg → Word
  | .msip => boolWord s.clint.msip
  | .mtimecmpLo => s.clint.mtimecmp.extractLsb' 0 32
  | .mtimecmpHi => s.clint.mtimecmp.extractLsb' 32 32
  | .mtimeLo => s.inputs.sysCnt.extractLsb' 0 32
  | .mtimeHi => s.inputs.sysCnt.extractLsb' 32 32
  | .cliccfg => (s.clic.nlbits ++ 1#1).setWidth 32
  | .clicinfo => clicinfoWord s.cfg
  | .minththresh => placeField s.clic.mth s.cfg.layout.mintthreshMth
  | .source id byte =>
    match s.source? id with
    | none => 0
    | some x => s.sourceWord x >>> (8 * byte)

/-- `v` cut to an access size and zero-extended. -/
def cutTo (size : AccessSize) (v : Word) : Word :=
  match size with
  | .byte => (v.setWidth 8).setWidth 32
  | .half => (v.setWidth 16).setWidth 32
  | .word => v

/-- Byte `k` of the word that a store of `v` at byte `first` gives a source, if the store covers it. -/
def storedByte (first : Nat) (size : AccessSize) (v : Word) (k : Nat) : Option Byte :=
  if first ≤ k ∧ k < first + size.bytes then some ((v >>> (8 * (k - first))).setWidth 8) else none

/-- A write of CLICINTIP: ignored in level mode, bit 0 stored in edge mode, where an edge of this same step wins over a
clear (60 R443, R465; log 15). -/
def ClicSource.writeIp (x : ClicSource) (v : Byte) : ClicSource :=
  if x.isEdge then { x with ip := v.getLsbD 0 || x.edge } else x

/-- A write of CLICINTIE (60 R466). -/
def ClicSource.writeIe (x : ClicSource) (v : Byte) : ClicSource := { x with ie := v.getLsbD 0 }

/-- A write of CLICINTATTR: trig and shv (60 R467; log 16). -/
def ClicSource.writeAttr (x : ClicSource) (v : Byte) : ClicSource :=
  { x with trig := v.extractLsb' 1 2, shv := v.getLsbD 0 }

/-- A write of CLICINTCTL: the low 8 - CLICINTCTLBITS bits stay 1 (60 R468). -/
def ClicSource.writeCtl (c : Config) (x : ClicSource) (v : Byte) : ClicSource :=
  { x with ctl := v ||| (0xFF#8 >>> c.ctlBits.toNat) }

/-- A store to the byte registers of a source: each covered byte by its own rule, the pending byte under the trigger mode
held before the access (60 R461, R465). -/
def ClicSource.store (c : Config) (x : ClicSource) (first : Nat) (size : AccessSize) (v : Word) : ClicSource :=
  let apply (f : ClicSource → Byte → ClicSource) (k : Nat) (y : ClicSource) : ClicSource :=
    match storedByte first size v k with
    | none => y
    | some b => f y b
  apply (ClicSource.writeCtl c) 3 (apply ClicSource.writeAttr 2 (apply ClicSource.writeIe 1 (apply ClicSource.writeIp 0 x)))

/-- What a store to a register does; read-only registers and ids that do not exist ignore it (20 R163, D17, D42). -/
def State.tcipStore (s : State) (r : TcipReg) (size : AccessSize) (v : Word) : State :=
  match r with
  | .msip => { s with clint := { s.clint with msip := v.getLsbD 0 } }
  | .mtimecmpLo => { s with clint := { s.clint with mtimecmp := s.clint.mtimecmp.extractLsb' 32 32 ++ v } }
  | .mtimecmpHi => { s with clint := { s.clint with mtimecmp := v ++ s.clint.mtimecmp.extractLsb' 0 32 } }
  | .mtimeLo | .mtimeHi | .clicinfo => s
  | .cliccfg => { s with clic := { s.clic with nlbits := v.extractLsb' 1 4 } }
  | .minththresh => { s with clic := { s.clic with mth := v.extractLsb' s.cfg.layout.mintthreshMth 8 } }
  | .source id byte => s.setSource id fun x => x.store s.cfg byte size v

/-- `TcipRead` (20 R163). -/
def State.tcipRead (s : State) (a : Word) (size : AccessSize) : Option Word :=
  (tcipReg? a size).map fun r => cutTo size (s.tcipValue r)

/-- `TcipWrite` (20 R163). -/
def State.tcipWrite (s : State) (a : Word) (size : AccessSize) (v : Word) : Option State :=
  (tcipReg? a size).map fun r => s.tcipStore r size v

end Sys2Proof.Machine
end

