-- ==== Sys2Proof/Machine/Access.lean ====
section
/-! DEFINITION. The exceptions (60 R411, R413, R422) and the three access primitives MemRead, MemWrite and Fetch
(20 R160 to R163, R167, R171, R173). -/

namespace Sys2Proof.Machine

/-- The synchronous exceptions with what each reports in MTVAL (60 R411, R422). -/
inductive Exc where
  | instrAccessFault (addr : Word)
  | illegal (code : Word)
  | breakpoint
  | loadMisaligned (addr : Word)
  | loadAccessFault (addr : Word)
  | storeMisaligned (addr : Word)
  | storeAccessFault (addr : Word)
  | ecallU
  | ecallM
  deriving DecidableEq, Repr

/-- The exception code (60 R411). -/
def Exc.code : Exc → BitVec 12
  | .instrAccessFault _ => 1
  | .illegal _ => 2
  | .breakpoint => 3
  | .loadMisaligned _ => 4
  | .loadAccessFault _ => 5
  | .storeMisaligned _ => 6
  | .storeAccessFault _ => 7
  | .ecallU => 8
  | .ecallM => 11

/-- What MTVAL receives (60 R422). -/
def Exc.info : Exc → Word
  | .instrAccessFault a | .loadMisaligned a | .loadAccessFault a | .storeMisaligned a | .storeAccessFault a => a
  | .illegal w => w
  | .breakpoint | .ecallU | .ecallM => 0

/-- Codes 3, 8 and 11, raised by the program on purpose (60 R432). -/
def Exc.selfInflicted : Exc → Bool
  | .breakpoint | .ecallU | .ecallM => true
  | .instrAccessFault _ | .illegal _ | .loadMisaligned _ | .loadAccessFault _ | .storeMisaligned _
  | .storeAccessFault _ => false

/-- The answer of an access: done, an exception, or a stop the spec asks for. -/
inductive Access (α : Type) where
  | ok (x : α)
  | raised (e : Exc)
  | refused (r : Refusal)
  deriving DecidableEq, Repr

/-- Natural alignment (20 R123). -/
def aligned (a : Word) : AccessSize → Bool
  | .byte => true
  | .half => a.extractLsb' 0 1 == 0#1
  | .word => a.extractLsb' 0 2 == 0#2

/-- The bus answers this access with ERROR (20 R136). -/
def State.busError (s : State) (a : Word) (size : AccessSize) (kind : AccessKind) : Bool :=
  s.inputs.busErrors.any fun r => r.kind == kind && r.size == size && decide (r.lo ≤ a) && decide (a ≤ r.hi)

/-- `MemRead(addr, n)` (20 R160), user accesses to the TCIP region failing as R163 says (D16). -/
def State.memRead (s : State) (a : Word) (size : AccessSize) : Access Word :=
  if !aligned a size then .raised (.loadMisaligned a)
  else if !s.pmpAllows s.dataPriv .load a then .raised (.loadAccessFault a)
  else if inTcip a then
    if s.dataPriv = .user then .raised (.loadAccessFault a)
    else match s.tcipRead a size with
      | some v => .ok v
      | none => .refused .tcipAccess
  else if s.busError a size .load then .raised (.loadAccessFault a)
  else .ok (Memory.readLE s.mem a size.bytes)

/-- `MemWrite(addr, n, v)` (20 R161, R163). -/
def State.memWrite (s : State) (a : Word) (size : AccessSize) (v : Word) : Access State :=
  if !aligned a size then .raised (.storeMisaligned a)
  else if !s.pmpAllows s.dataPriv .store a then .raised (.storeAccessFault a)
  else if inTcip a then
    if s.dataPriv = .user then .raised (.storeAccessFault a)
    else match s.tcipWrite a size v with
      | some s' => .ok s'
      | none => .refused .tcipAccess
  else if s.busError a size .store then .raised (.storeAccessFault a)
  else .ok (s.storeBytes a size v)

/-! ### Fetch -/

/-- The two attributes of an address (20 R138, R139). -/
structure MemAttr where
  cacheable : Bool
  bufferable : Bool
  deriving DecidableEq, Repr

/-- The attributes of a 4 KiB page: those of the first region whose interval holds it, and both in no region (20 R140). -/
def sysmapAttr (page : BitVec 20) (lo : BitVec 20) : List SysmapRegion → MemAttr
  | [] => { cacheable := true, bufferable := true }
  | r :: rest =>
    if lo ≤ page ∧ page < r.upper then { cacheable := r.cacheable, bufferable := r.bufferable }
    else sysmapAttr page r.upper rest

/-- `attr(addr)` (20 R140). Bufferable changes nothing that one core can show (20 R139, log 26). -/
def memAttr (c : Config) (a : Word) : MemAttr := sysmapAttr (a.extractLsb' 12 20) 0 c.sysmap.toList

/-- Whether a fetch of `a` may use the instruction cache: present, on, and the address cacheable (20 R138, R172). -/
def State.usesIcache (s : State) (a : Word) : Bool :=
  s.cfg.icacheSize != .none && s.csr.icacheEnable && (memAttr s.cfg a).cacheable

/-- What the cache holds for a line (20 R171, R173). -/
inductive LineView where
  | absent
  | copy (bytes : Vector Byte 16)
  /-- anything: nothing has filled or invalidated the line since reset (U3) -/
  | anything
  deriving DecidableEq, Repr

/-- The 16-byte line of an address (20 R170). -/
def lineOf (a : Word) : Nat := (a >>> 4).toNat

/-- Look a line up; the first entry decides. -/
def Icache.view (c : Icache) (line : Nat) : LineView :=
  match c.lines.find? (fun e => e.1 == line) with
  | some (_, some bytes) => .copy bytes
  | some (_, none) => .absent
  | none => if c.unspecified then .anything else .absent

/-- The bytes of a line in memory. -/
def memoryLine (m : List Host.Cell) (line : Nat) : Vector Byte 16 :=
  Vector.ofFn fun i => Memory.read m (16 * line + i.val)

/-- Give a line an entry, replacing any older one. -/
def Icache.put (c : Icache) (line : Nat) (x : Option (Vector Byte 16)) : Icache :=
  { c with lines := (line, x) :: c.lines.filter (fun e => e.1 != line) }

/-- The parcel of a copy at an address. -/
def copyParcel (bytes : Vector Byte 16) (a : Word) : Half :=
  bytes[(2 * (a.extractLsb' 1 3).toNat + 1)]'(by have := (a.extractLsb' 1 3).isLt; omega) ++
    bytes[(2 * (a.extractLsb' 1 3).toNat)]'(by have := (a.extractLsb' 1 3).isLt; omega)

/-- Earlier values of the parcel that a store replaced and a fetch may still return (20 R167). -/
def State.staleParcels (s : State) (a : Word) (current : Half) : List Half :=
  (s.stale.filter fun e => e.1 == a.toNat && e.2 != current).map (·.2)

/-- One open value has been drawn. -/
def State.drawn (s : State) : State := { s with draws := s.draws + 1 }

/-- One of the parcels a fetch may return; a value is drawn only where there is a choice (log 13, log 14). -/
def State.chooseParcel (s : State) (first : Half) (others : List Half) : Half × State :=
  match others with
  | [] => (first, s)
  | o :: os => ((o :: os).getD (Config.freeChoice s.draws % (os.length + 2)) first, s.drawn)

/-- Record the memory line under the address; where the cache already held something else this is open (20 R173). -/
def State.fillLine (s : State) (a : Word) (view : LineView) : State :=
  let fill := { s with icache := s.icache.put (lineOf a) (some (memoryLine s.mem (lineOf a))) }
  match view with
  | .absent => fill
  | .copy bytes =>
    if bytes = memoryLine s.mem (lineOf a) then s
    else if Config.freeFill s.draws then fill.drawn else s.drawn
  | .anything => if Config.freeFill s.draws then fill.drawn else s.drawn

/-- The 16-bit value a fetch of `a` returns, from memory, from before a store, or from the cache
(20 R162, R167, R171, R173). -/
def State.parcelAt (s : State) (a : Word) : Half × State :=
  let current := Memory.readHalf s.mem a
  let old := s.staleParcels a current
  if s.usesIcache a then
    let view := s.icache.view (lineOf a)
    let r := match view with
      | .absent => s.chooseParcel current old
      | .copy bytes =>
        if copyParcel bytes a = current then s.chooseParcel current old
        else s.chooseParcel current (copyParcel bytes a :: old)
      | .anything => s.drawn.chooseParcel current (Config.freeParcel s.draws :: old)
    (r.1, r.2.fillLine a view)
  else s.chooseParcel current old

/-- `FetchHalf(a)` (20 R162). A fetch from the TCIP region is refused, but for the fetch from RESET_ADDR in the first step
after reset, which raises the exception 70 R521 names (log 18). -/
def State.fetchHalf (s : State) (a : Word) : Access (Half × State) :=
  if !s.pmpAllows s.priv .fetch a then .raised (.instrAccessFault a)
  else if inTcip a then
    if s.sinceReset = .first ∧ s.pc = s.cfg.resetAddr then .raised (.instrAccessFault a) else .refused .tcipFetch
  else if s.busError a .half .fetch then .raised (.instrAccessFault a)
  else .ok (s.parcelAt a)

end Sys2Proof.Machine
end

