-- ==== Sys2Proof/Machine/Operands.lean ====
section
/-! DEFINITION. The operand forms: general registers, and every immediate as the 32-bit value the instruction uses
(10 R20, R21; 30 R184 to R190, R196, R198). -/

namespace Sys2Proof.Machine

/-- The value of a register; x0 reads 0 (10 R21). -/
def State.reg (s : State) (r : Reg) : Word := if r = 0 then 0 else s.regs[r.val]

/-- Write a register; a write of x0 is discarded (10 R21). -/
def State.setReg (s : State) (r : Reg) (v : Word) : State :=
  if r = 0 then s else { s with regs := s.regs.set r.val v }

/-- The register a 3-bit field names (30 R196). -/
def cr (c : CReg) : Reg := ⟨8 + c.val, by omega⟩

/-- `sext_12(imm12)` of the I and S formats (30 R184, R186). -/
def sext12 (imm : BitVec 12) : Word := imm.signExtend 32

/-- `sext_13({imm12, 0})` of the B format (30 R187). -/
def branchOffset (imm : BitVec 12) : Word := (imm ++ 0#1).signExtend 32

/-- `imm20 << 12` of the U format (30 R188). -/
def upperImm (imm : BitVec 20) : Word := imm ++ 0#12

/-- `sext_21({imm20, 0})` of the J format (30 R189). -/
def jumpOffset (imm : BitVec 20) : Word := (imm ++ 0#1).signExtend 32

/-- `zext_5(imm5)` of the CSR immediate forms (30 R190). -/
def zext5 (imm : BitVec 5) : Word := imm.setWidth 32

/-- `zext_10(nzuimm8 << 2)` of C.ADDI4SPN (30 R198). -/
def addi4spnImm (imm : BitVec 8) : Word := (imm ++ 0#2).setWidth 32

/-- `zext_7(uimm5 << 2)` of C.LW and C.SW (30 R198). -/
def clwOffset (imm : BitVec 5) : Word := (imm ++ 0#2).setWidth 32

/-- `zext_8(uimm6 << 2)` of C.LWSP and C.SWSP (30 R198). -/
def spOffset (imm : BitVec 6) : Word := (imm ++ 0#2).setWidth 32

/-- `sext_6` of C.ADDI, C.LI and C.ANDI (30 R198). -/
def sext6 (imm : BitVec 6) : Word := imm.signExtend 32

/-- `sext_18({nzimm6, 0x000})` of C.LUI (30 R198). -/
def cLuiImm (imm : BitVec 6) : Word := (imm ++ 0#12).signExtend 32

/-- `sext_10(nzimm6 << 4)` of C.ADDI16SP (30 R198). -/
def addi16spImm (imm : BitVec 6) : Word := (imm ++ 0#4).signExtend 32

/-- `sext_12({imm11, 0})` of C.J and C.JAL (30 R198). -/
def cjOffset (imm : BitVec 11) : Word := (imm ++ 0#1).signExtend 32

/-- `sext_9({imm8, 0})` of C.BEQZ and C.BNEZ (30 R198). -/
def cbOffset (imm : BitVec 8) : Word := (imm ++ 0#1).signExtend 32

end Sys2Proof.Machine
end

