-- ==== Sys2Proof/Machine/Ops.lean ====
section
/-! DEFINITION. The operations the meanings share: retiring, taking an exception, lockup, returning, interrupt and NMI
entry (60 R420 to R474), and the privilege field that only holds legal values (10 R42). -/

namespace Sys2Proof.Machine

/-- What a step of the machine answers. -/
abbrev Result := Host.Outcome State Fault Refusal

/-- The bits of a privilege mode (10 R29). -/
def Priv.bits : Priv → BitVec 2
  | .machine => 3
  | .user => 0

/-- The instruction retires and the next one is at `pc` (10 R27, R66). -/
def State.retire (s : State) (pc : Word) : State := { s with pc := pc, minstret := s.minstret + 1 }

/-- The instruction retires and the next one follows it in memory (10 R27). -/
def State.advance (s : State) (length : Word) : State := s.retire (s.pc + length)

/-- The legal value MPP takes when `bits` is written (10 R42, D33; log 17). -/
def State.legalMpp (s : State) (bits : BitVec 2) : Priv :=
  if bits = 3#2 then .machine
  else if bits = 0#2 ∧ s.cfg.hasUmode then .user
  else match s.cfg.mppIllegalWrite with
    | .keepOld => s.csr.status.mpp
    | .forceM => .machine
    | .anyLegal => if !s.cfg.hasUmode || Config.freeMppIsMachine s.draws then .machine else .user

/-- Whether writing `bits` to MPP draws an open value. -/
def State.mppDraws (s : State) (bits : BitVec 2) : Bool :=
  bits != 3#2 && !(bits == 0#2 && s.cfg.hasUmode) && s.cfg.mppIllegalWrite == .anyLegal && s.cfg.hasUmode

/-- What MPP holds after a return (60 R440). -/
def mppAfterReturn (c : Config) : Priv := if c.hasUmode then .user else .machine

/-- The entry address of exceptions, NMI and non-vectored interrupts (60 R423). -/
def State.trapVector (s : State) : Word := s.csr.mtvecBase ++ 0#6

/-- `Lockup()` (60 R433). -/
def State.lockUp (s : State) : State :=
  { s with
    csr := { s.csr with ex := { s.csr.ex with lockup := true } }
    lockupNmi := false }

/-- The updates of an exception entry that does not lock up (60 R420). -/
def State.enterException (s : State) (e : Exc) : State :=
  { s with
    pc := s.trapVector
    priv := .machine
    minstret := if s.cfg.minstretCountsTrapped then s.minstret + 1 else s.minstret
    csr := { s.csr with
      mepc := s.pc
      mtval := e.info
      cause := { s.csr.cause with code := e.code, interrupt := false }
      status := { s.csr.status with mpie := s.csr.status.mie, mie := false, mpp := s.priv }
      ex := { s.csr.ex with
        exptVld := if !e.selfInflicted || s.cfg.ecallSetsExptVld then true else s.csr.ex.exptVld } } }

/-- Whether the exception locks the core up instead of being taken (60 R431, R432, R436). -/
def State.exceptionLocks (s : State) (e : Exc) : Bool := s.inNmi || (s.csr.ex.exptVld && !e.selfInflicted)

/-- `TrapEntry(E, info)` (60 R420). -/
def State.trapEntry (s : State) (e : Exc) : State :=
  if s.exceptionLocks e then s.lockUp else s.enterException e

/-- `raise E(info)`: the instruction is abandoned and the exception is taken (60 R414, R420). -/
def raise (s : State) (e : Exc) : Result := .next (s.trapEntry e)

/-- Raise IllegalInstruction with the code of the instruction (30 R203). -/
def raiseIllegal (s : State) (i : Instr) : Result := raise s (.illegal (encode i).toWord)

/-- `TrapReturn()` (60 R440). -/
def State.trapReturn (s : State) : State :=
  { s with
    pc := s.csr.mepc
    priv := s.csr.status.mpp
    minstret := s.minstret + 1
    csr := { s.csr with
      mil := s.csr.cause.mpil
      status := { s.csr.status with mie := s.csr.status.mpie, mpie := true, mpp := (mppAfterReturn s.cfg) }
      ex := { s.csr.ex with exptVld := false } } }

/-- The NMI return (60 R474); a saved MPP that is no legal mode is legalised as a write of MPP is (log 17). -/
def State.nmiReturn (s : State) : State :=
  { s with
    pc := s.csr.mepc
    priv := s.csr.status.mpp
    minstret := s.minstret + 1
    lockupNmi := false
    draws := if s.mppDraws s.csr.nmi.mpp then s.draws + 1 else s.draws
    csr := { s.csr with
      mepc := s.csr.mnmipc
      cause := { s.csr.cause with code := s.csr.nmi.vector, interrupt := s.csr.nmi.intr }
      status := { s.csr.status with
        mie := if s.cfg.nmiTouchesMie then s.csr.status.mpie else s.csr.status.mie
        mpie := s.csr.nmi.mpie
        mpp := s.legalMpp s.csr.nmi.mpp }
      nmi := { s.csr.nmi with mpp := (mppAfterReturn s.cfg).bits } } }

/-- `NmiEntry()` (60 R471). -/
def State.nmiEntry (s : State) : State :=
  { s with
    pc := s.trapVector
    priv := .machine
    nmiPending := false
    csr := { s.csr with
      mnmipc := s.csr.mepc
      mepc := s.pc
      nmi := {
        intr := s.csr.cause.interrupt
        mpp := s.csr.status.mpp.bits
        mpie := s.csr.status.mpie
        vector := s.csr.cause.code }
      cause := { s.csr.cause with code := 24, interrupt := false }
      status := { s.csr.status with
        mpp := s.priv
        mpie := s.csr.status.mie
        mie := if s.cfg.nmiTouchesMie then false else s.csr.status.mie } } }

/-- The updates every interrupt entry makes, but for the pc (60 R451). -/
def State.enterInterrupt (s : State) (x : ClicSource) : State :=
  { s with
    priv := .machine
    csr := { s.csr with
      mepc := s.pc
      mil := s.levelOf x
      cause := { s.csr.cause with code := BitVec.ofNat 12 x.id, interrupt := true, mpil := s.csr.mil }
      status := { s.csr.status with mpie := s.csr.status.mie, mie := false, mpp := s.priv } } }

/-- The address of a vector table entry (60 R452, 10 R58). -/
def State.vectorAddress (s : State) (id : Nat) : Word := (s.csr.mtvt ++ 0#6) + 4 * BitVec.ofNat 32 id

/-- `VectorFetch(a)`: a data read that no PMP entry checks; `none` where the word cannot be obtained (60 R452, R453). -/
def State.vectorFetch (s : State) (a : Word) : Option Word :=
  if inTcip a || s.busError a .word .load then none else some (Memory.readLE s.mem a 4)

/-- `InterruptEntry(irq)` (60 R451). MINHV is 1 only during the table read and 0 after it. -/
def interruptEntry (s : State) (x : ClicSource) : Result :=
  if x.shv then
    match s.vectorFetch (s.vectorAddress x.id) with
    | none => .refused .vectorFetch
    | some t =>
      let s' := (s.enterInterrupt x).setSource x.id ClicSource.acknowledge
      .next { s' with
        pc := t &&& 0xFFFFFFFE
        csr := { s'.csr with cause := { s'.csr.cause with minhv := false } } }
  else .next { s.enterInterrupt x with pc := s.trapVector }

end Sys2Proof.Machine
end

