-- ==== Sys2Proof/Machine/Integer.lean ====
section
/-! DEFINITION. The integer computational instructions (40 R220 to R241). -/

namespace Sys2Proof.Machine

/-- Write a result and go on to the next instruction, `length` bytes further (10 R21, R27). -/
def setAdvance (s : State) (rd : Reg) (v : Word) (length : Word) : Result := .next ((s.setReg rd v).advance length)

/-- The shift amount in a register: its low five bits (40 R222, R226, R227). -/
def shiftAmount (v : Word) : Nat := (v.extractLsb' 0 5).toNat

/-- Arithmetic shift right (40 R227, R238). -/
def shiftRightArith (v : Word) (k : Nat) : Word := v.sshiftRight k

/-- The comparand of SLTIU, sign-extended unless `SLTIU_ZERO_EXTENDS` (40 R232, D1). -/
def sltiuOperand (c : Config) (imm : BitVec 12) : Word := if c.sltiuZeroExtends then imm.setWidth 32 else sext12 imm

/-- ADD (40 R220). -/
def execAdd (rd rs1 rs2 : Reg) (s : State) : Result :=
  setAdvance s rd (s.reg rs1 + s.reg rs2) 4

/-- SUB (40 R221). -/
def execSub (rd rs1 rs2 : Reg) (s : State) : Result :=
  setAdvance s rd (s.reg rs1 - s.reg rs2) 4

/-- SLL (40 R222). -/
def execSll (rd rs1 rs2 : Reg) (s : State) : Result :=
  setAdvance s rd (s.reg rs1 <<< shiftAmount (s.reg rs2)) 4

/-- SLT (40 R223). -/
def execSlt (rd rs1 rs2 : Reg) (s : State) : Result :=
  setAdvance s rd (boolWord (ltSigned (s.reg rs1) (s.reg rs2))) 4

/-- SLTU (40 R224). -/
def execSltu (rd rs1 rs2 : Reg) (s : State) : Result :=
  setAdvance s rd (boolWord (ltUnsigned (s.reg rs1) (s.reg rs2))) 4

/-- XOR (40 R225). -/
def execXor (rd rs1 rs2 : Reg) (s : State) : Result :=
  setAdvance s rd (s.reg rs1 ^^^ s.reg rs2) 4

/-- SRL (40 R226). -/
def execSrl (rd rs1 rs2 : Reg) (s : State) : Result :=
  setAdvance s rd (s.reg rs1 >>> shiftAmount (s.reg rs2)) 4

/-- SRA (40 R227). -/
def execSra (rd rs1 rs2 : Reg) (s : State) : Result :=
  setAdvance s rd (shiftRightArith (s.reg rs1) (shiftAmount (s.reg rs2))) 4

/-- OR (40 R228). -/
def execOr (rd rs1 rs2 : Reg) (s : State) : Result :=
  setAdvance s rd (s.reg rs1 ||| s.reg rs2) 4

/-- AND (40 R229). -/
def execAnd (rd rs1 rs2 : Reg) (s : State) : Result :=
  setAdvance s rd (s.reg rs1 &&& s.reg rs2) 4

/-- ADDI (40 R230). -/
def execAddi (rd rs1 : Reg) (imm : BitVec 12) (s : State) : Result :=
  setAdvance s rd (s.reg rs1 + sext12 imm) 4

/-- SLTI (40 R231). -/
def execSlti (rd rs1 : Reg) (imm : BitVec 12) (s : State) : Result :=
  setAdvance s rd (boolWord (ltSigned (s.reg rs1) (sext12 imm))) 4

/-- SLTIU (40 R232). -/
def execSltiu (rd rs1 : Reg) (imm : BitVec 12) (s : State) : Result :=
  setAdvance s rd (boolWord (ltUnsigned (s.reg rs1) (sltiuOperand s.cfg imm))) 4

/-- XORI (40 R233). -/
def execXori (rd rs1 : Reg) (imm : BitVec 12) (s : State) : Result :=
  setAdvance s rd (s.reg rs1 ^^^ sext12 imm) 4

/-- ORI (40 R234). -/
def execOri (rd rs1 : Reg) (imm : BitVec 12) (s : State) : Result :=
  setAdvance s rd (s.reg rs1 ||| sext12 imm) 4

/-- ANDI (40 R235). -/
def execAndi (rd rs1 : Reg) (imm : BitVec 12) (s : State) : Result :=
  setAdvance s rd (s.reg rs1 &&& sext12 imm) 4

/-- SLLI (40 R236). -/
def execSlli (rd rs1 : Reg) (shamt : BitVec 5) (s : State) : Result :=
  setAdvance s rd (s.reg rs1 <<< shamt.toNat) 4

/-- SRLI (40 R237). -/
def execSrli (rd rs1 : Reg) (shamt : BitVec 5) (s : State) : Result :=
  setAdvance s rd (s.reg rs1 >>> shamt.toNat) 4

/-- SRAI (40 R238). -/
def execSrai (rd rs1 : Reg) (shamt : BitVec 5) (s : State) : Result :=
  setAdvance s rd (shiftRightArith (s.reg rs1) shamt.toNat) 4

/-- LUI (40 R240). -/
def execLui (rd : Reg) (imm : BitVec 20) (s : State) : Result :=
  setAdvance s rd (upperImm imm) 4

/-- AUIPC (40 R241). -/
def execAuipc (rd : Reg) (imm : BitVec 20) (s : State) : Result :=
  setAdvance s rd (s.pc + upperImm imm) 4

end Sys2Proof.Machine
end

