-- ==== Sys2Proof/Machine/LoadStore.lean ====
section
/-! DEFINITION. The loads and stores (42 R280 to R290). -/

namespace Sys2Proof.Machine

/-- The effective address (42 R280). -/
def State.effectiveAddress (s : State) (rs1 : Reg) (imm : BitVec 12) : Word := s.reg rs1 + sext12 imm

/-- A load of an instruction `length` bytes long; an access that fails writes nothing (20 R125, 42 R281). -/
def load (s : State) (rd : Reg) (addr : Word) (size : AccessSize) (extend : Word → Word) (length : Word) : Result :=
  match s.memRead addr size with
  | .ok v => setAdvance s rd (extend v) length
  | .raised e => raise s e
  | .refused r => .refused r

/-- A store of an instruction `length` bytes long (20 R125, 42 R281). -/
def store (s : State) (addr : Word) (size : AccessSize) (v : Word) (length : Word) : Result :=
  match s.memWrite addr size v with
  | .ok s' => .next (s'.advance length)
  | .raised e => raise s e
  | .refused r => .refused r

/-- `sext_8` of a loaded byte. -/
def signByte (v : Word) : Word := (v.setWidth 8).signExtend 32

/-- `sext_16` of a loaded halfword. -/
def signHalf (v : Word) : Word := (v.setWidth 16).signExtend 32

/-- `zext_8` of a loaded byte. -/
def zeroByte (v : Word) : Word := (v.setWidth 8).setWidth 32

/-- `zext_16` of a loaded halfword. -/
def zeroHalf (v : Word) : Word := (v.setWidth 16).setWidth 32

/-- LB (42 R282). -/
def execLb (rd rs1 : Reg) (imm : BitVec 12) (s : State) : Result :=
  load s rd (s.effectiveAddress rs1 imm) .byte signByte 4

/-- LH (42 R283). -/
def execLh (rd rs1 : Reg) (imm : BitVec 12) (s : State) : Result :=
  load s rd (s.effectiveAddress rs1 imm) .half signHalf 4

/-- LW (42 R284). -/
def execLw (rd rs1 : Reg) (imm : BitVec 12) (s : State) : Result :=
  load s rd (s.effectiveAddress rs1 imm) .word id 4

/-- LBU (42 R285). -/
def execLbu (rd rs1 : Reg) (imm : BitVec 12) (s : State) : Result :=
  load s rd (s.effectiveAddress rs1 imm) .byte zeroByte 4

/-- LHU (42 R286). -/
def execLhu (rd rs1 : Reg) (imm : BitVec 12) (s : State) : Result :=
  load s rd (s.effectiveAddress rs1 imm) .half zeroHalf 4

/-- SB (42 R287). -/
def execSb (rs2 rs1 : Reg) (imm : BitVec 12) (s : State) : Result :=
  store s (s.effectiveAddress rs1 imm) .byte (s.reg rs2) 4

/-- SH (42 R288). -/
def execSh (rs2 rs1 : Reg) (imm : BitVec 12) (s : State) : Result :=
  store s (s.effectiveAddress rs1 imm) .half (s.reg rs2) 4

/-- SW (42 R289). -/
def execSw (rs2 rs1 : Reg) (imm : BitVec 12) (s : State) : Result :=
  store s (s.effectiveAddress rs1 imm) .word (s.reg rs2) 4

end Sys2Proof.Machine
end

