-- ==== Sys2Proof/Machine/Branch.lean ====
section
/-! DEFINITION. The branches and jumps (41 R260 to R273). -/

namespace Sys2Proof.Machine

/-- A conditional branch of an instruction `length` bytes long; the target is relative to its own address (41 R270). -/
def branch (s : State) (taken : Bool) (offset length : Word) : Result :=
  .next (s.retire (if taken then s.pc + offset else s.pc + length))

/-- A jump with a link value; the target was computed before the link register is written (41 R266, R267). -/
def jumpLink (s : State) (rd : Reg) (target length : Word) : Result :=
  .next ((s.setReg rd (s.pc + length)).retire target)

/-- Bit 0 of a register target is cleared (41 R267, R269; D3). -/
def evenTarget (v : Word) : Word := v &&& 0xFFFFFFFE

/-- BEQ (41 R260). -/
def execBeq (rs1 rs2 : Reg) (imm : BitVec 12) (s : State) : Result :=
  branch s (s.reg rs1 == s.reg rs2) (branchOffset imm) 4

/-- BNE (41 R261). -/
def execBne (rs1 rs2 : Reg) (imm : BitVec 12) (s : State) : Result :=
  branch s (s.reg rs1 != s.reg rs2) (branchOffset imm) 4

/-- BLT (41 R262). -/
def execBlt (rs1 rs2 : Reg) (imm : BitVec 12) (s : State) : Result :=
  branch s (ltSigned (s.reg rs1) (s.reg rs2)) (branchOffset imm) 4

/-- BGE (41 R263). -/
def execBge (rs1 rs2 : Reg) (imm : BitVec 12) (s : State) : Result :=
  branch s (!ltSigned (s.reg rs1) (s.reg rs2)) (branchOffset imm) 4

/-- BLTU (41 R264). -/
def execBltu (rs1 rs2 : Reg) (imm : BitVec 12) (s : State) : Result :=
  branch s (ltUnsigned (s.reg rs1) (s.reg rs2)) (branchOffset imm) 4

/-- BGEU (41 R265). -/
def execBgeu (rs1 rs2 : Reg) (imm : BitVec 12) (s : State) : Result :=
  branch s (!ltUnsigned (s.reg rs1) (s.reg rs2)) (branchOffset imm) 4

/-- JAL (41 R266). -/
def execJal (rd : Reg) (imm : BitVec 20) (s : State) : Result :=
  jumpLink s rd (s.pc + jumpOffset imm) 4

/-- JALR (41 R267). -/
def execJalr (rd rs1 : Reg) (imm : BitVec 12) (s : State) : Result :=
  jumpLink s rd (evenTarget (s.reg rs1 + sext12 imm)) 4

end Sys2Proof.Machine
end

