-- ==== Sys2Proof/Machine/Csr.lean ====
section
/-! DEFINITION. The control registers: the number of each (10 R33), what a read returns, what a write does (10 R36 to R99),
and the shared read-modify-write of the six CSR instructions (43 R300, R301, R308). -/

namespace Sys2Proof.Machine

/-- The control registers of 10 R33. -/
inductive Csr where
  | mvendorid | marchid | mimpid | mhartid
  | mstatus | misa | mie | mtvec | mcounteren | mtvt
  | mscratch | mepc | mcause | mtval | mip | mnxti | mintstatus | mscratchcsw | mscratchcswl | mclicbase
  | pmpcfg (k : Fin 4) | pmpaddr (i : Fin 16)
  | mcycle | minstret | mcycleh | minstreth
  | mxstatus | mhcr | mraddr | mexstatus | mnmicause | mnmipc | mcpuid
  deriving DecidableEq, Repr

/-- The register a number names; `none` for a number in neither table (10 R32, R33, R34). -/
def csr? (n : BitVec 12) : Option Csr :=
  if n.extractLsb' 2 10 = 0x0E8#10 then some (.pmpcfg (n.extractLsb' 0 2).toFin)
  else if n.extractLsb' 4 8 = 0x3B#8 then some (.pmpaddr (n.extractLsb' 0 4).toFin)
  else if n = 0xF11#12 then some .mvendorid
  else if n = 0xF12#12 then some .marchid
  else if n = 0xF13#12 then some .mimpid
  else if n = 0xF14#12 then some .mhartid
  else if n = 0x300#12 then some .mstatus
  else if n = 0x301#12 then some .misa
  else if n = 0x304#12 then some .mie
  else if n = 0x305#12 then some .mtvec
  else if n = 0x306#12 then some .mcounteren
  else if n = 0x307#12 then some .mtvt
  else if n = 0x340#12 then some .mscratch
  else if n = 0x341#12 then some .mepc
  else if n = 0x342#12 then some .mcause
  else if n = 0x343#12 then some .mtval
  else if n = 0x344#12 then some .mip
  else if n = 0x345#12 then some .mnxti
  else if n = 0x346#12 then some .mintstatus
  else if n = 0x348#12 then some .mscratchcsw
  else if n = 0x349#12 then some .mscratchcswl
  else if n = 0x350#12 then some .mclicbase
  else if n = 0xB00#12 then some .mcycle
  else if n = 0xB02#12 then some .minstret
  else if n = 0xB80#12 then some .mcycleh
  else if n = 0xB82#12 then some .minstreth
  else if n = 0x7C0#12 then some .mxstatus
  else if n = 0x7C1#12 then some .mhcr
  else if n = 0x7E0#12 then some .mraddr
  else if n = 0x7E1#12 then some .mexstatus
  else if n = 0x7E2#12 then some .mnmicause
  else if n = 0x7E3#12 then some .mnmipc
  else if n = 0xFC0#12 then some .mcpuid
  else none

/-- The registers a machine-mode write of which raises IllegalInstruction (10 R32, 43 R300 step 4); MCPUID as the
configuration says (C21, D5; log 19). -/
def Csr.writeTraps (c : Config) : Csr → Bool
  | .mvendorid | .marchid | .mimpid | .mhartid => true
  | .mcpuid => c.mcpuidWriteTraps
  | .mstatus | .misa | .mie | .mtvec | .mcounteren | .mtvt | .mscratch | .mepc | .mcause | .mtval | .mip | .mnxti
  | .mintstatus | .mscratchcsw | .mscratchcswl | .mclicbase | .pmpcfg _ | .pmpaddr _ | .mcycle | .minstret | .mcycleh
  | .minstreth | .mxstatus | .mhcr | .mraddr | .mexstatus | .mnmicause | .mnmipc => false

/-! ### Whole-register views -/

/-- MSTATUS (10 R40). -/
def State.mstatusWord (s : State) : Word :=
  placeField (boolBit s.csr.status.mie) 3 |||
    placeField (boolBit s.csr.status.mpie) s.cfg.layout.mstatusMpie |||
    placeField s.csr.status.mpp.bits 11 |||
    placeField (boolBit s.csr.status.mprv) s.cfg.layout.mstatusMprv

/-- MCAUSE (10 R55). -/
def State.mcauseWord (s : State) : Word :=
  boolBit s.csr.cause.interrupt ++ boolBit s.csr.cause.minhv ++ s.csr.status.mpp.bits ++ boolBit s.csr.status.mpie
    ++ 0#3 ++ s.csr.cause.mpil ++ 0#4 ++ s.csr.cause.code

/-- MCOUNTEREN (10 R48). -/
def State.mcounterenWord (s : State) : Word :=
  placeField (boolBit s.csr.counterCy) s.cfg.layout.mcounterenCy |||
    placeField (boolBit s.csr.counterTm) s.cfg.layout.mcounterenTm |||
    placeField (boolBit s.csr.counterIr) s.cfg.layout.mcounterenIr

/-- MXSTATUS (10 R80, R81). -/
def State.mxstatusWord (s : State) : Word :=
  placeField s.priv.bits s.cfg.layout.mxstatusPm ||| placeField (boolBit s.csr.theadisaee) 22

/-- MEXSTATUS with LPMD reading as given (10 R85). -/
def State.mexstatusWord (s : State) (lpmd : BitVec 2) : Word :=
  placeField s.csr.ex.softRst s.cfg.layout.mexSoftRst |||
    placeField lpmd s.cfg.layout.mexLpmd |||
    placeField (boolBit s.csr.ex.wfe) s.cfg.layout.mexWfe |||
    placeField (boolBit s.csr.ex.exptVld) s.cfg.layout.mexExptVld |||
    placeField (boolBit s.csr.ex.lockup) s.cfg.layout.mexLockup

/-- MNMICAUSE (10 R91). -/
def State.mnmicauseWord (s : State) : Word :=
  placeField (boolBit s.csr.nmi.intr) s.cfg.layout.nmiIntr |||
    placeField s.csr.nmi.mpp s.cfg.layout.nmiMpp |||
    placeField (boolBit s.csr.nmi.mpie) s.cfg.layout.nmiMpie |||
    placeField s.csr.nmi.vector s.cfg.layout.nmiVector

/-- The configuration byte of a PMP entry; an entry that does not exist reads 0 (10 R63, D14). -/
def State.pmpCfgByte (s : State) (i : Fin 16) : Byte :=
  if i.val < s.cfg.pmpEntries.toNat then s.pmp.cfg[i.val] else 0

/-- PMPCFGk: four entries, the lowest in the low byte (10 R63). -/
def State.pmpcfgWord (s : State) (k : Fin 4) : Word :=
  s.pmpCfgByte ⟨4 * k.val + 3, by omega⟩ ++ s.pmpCfgByte ⟨4 * k.val + 2, by omega⟩ ++
    s.pmpCfgByte ⟨4 * k.val + 1, by omega⟩ ++ s.pmpCfgByte ⟨4 * k.val, by omega⟩

/-- The sequence MCPUID reads, one word a read (10 R99, U28; log 19). -/
def mcpuidWords (c : Config) : List Word := c.mcpuidFirst :: c.mcpuidRest

/-- Count MCYCLE on by an open number of cycles (10 R65, D29; log 10). -/
def State.readCycles (s : State) : State :=
  { s with mcycle := s.mcycle + Config.freeCycles s.draws, draws := s.draws + 1 }

/-- What a read returns, with the draws a read makes; no read has an effect on another register (43 R301). The three
registers of 43 R308 have no plain read. -/
def State.csrRead (s : State) : Csr → Word × State
  | .mvendorid => (0x000005B7, s)
  | .marchid | .mimpid | .mhartid | .mie | .mip | .mnxti | .mscratchcsw | .mscratchcswl => (0, s)
  | .mstatus => (s.mstatusWord, s)
  | .misa => (0x40901105, s)
  | .mtvec =>
    if s.csr.mtvecLowOpen then (s.csr.mtvecBase ++ Config.freeMtvecLow s.draws ++ 3#2, s.drawn)
    else (s.csr.mtvecBase ++ 3#6, s)
  | .mcounteren => (s.mcounterenWord, s)
  | .mtvt => (s.csr.mtvt ++ 0#6, s)
  | .mscratch => (s.csr.mscratch, s)
  | .mepc => (s.csr.mepc, s)
  | .mcause => (s.mcauseWord, s)
  | .mtval => (s.csr.mtval, s)
  | .mintstatus => (placeField s.csr.mil s.cfg.layout.mintstatusMil, s)
  | .mclicbase => (0xE0800000, s)
  | .pmpcfg k => (s.pmpcfgWord k, s)
  | .pmpaddr i => (if i.val < s.cfg.pmpEntries.toNat then s.pmp.addr[i.val] else 0, s)
  | .mcycle => (s.readCycles.mcycle.extractLsb' 0 32, s.readCycles)
  | .mcycleh => (s.readCycles.mcycle.extractLsb' 32 32, s.readCycles)
  | .minstret => (s.minstret.extractLsb' 0 32, s)
  | .minstreth => (s.minstret.extractLsb' 32 32, s)
  | .mxstatus => (s.mxstatusWord, s)
  | .mhcr => (boolWord s.csr.icacheEnable, s)
  | .mraddr => (s.cfg.resetAddr, s)
  | .mexstatus =>
    if s.csr.ex.lpmdWoken then
      (s.mexstatusWord (if Config.freeLpmdReadsNormal s.draws then 3 else s.csr.ex.lpmd), s.drawn)
    else (s.mexstatusWord s.csr.ex.lpmd, s)
  | .mnmicause => (s.mnmicauseWord, s)
  | .mnmipc => (s.csr.mnmipc, s)
  | .mcpuid =>
    ((mcpuidWords s.cfg).getD (s.mcpuidNext % (mcpuidWords s.cfg).length) 0,
      { s with mcpuidNext := (s.mcpuidNext + 1) % (mcpuidWords s.cfg).length })

/-! ### Writes -/

/-- Write MPIE and MPP, the storage MSTATUS and MCAUSE share (10 R42, R56). -/
def State.writePrevious (s : State) (mpie : Bool) (mpp : BitVec 2) : State :=
  { s with
    draws := if s.mppDraws mpp then s.draws + 1 else s.draws
    csr := { s.csr with status := { s.csr.status with mpie := mpie, mpp := s.legalMpp mpp } } }

/-- MSTATUS (10 R42). -/
def State.writeMstatus (s : State) (v : Word) : State :=
  let s' := s.writePrevious (v.getLsbD s.cfg.layout.mstatusMpie) (v.extractLsb' 11 2)
  { s' with csr := { s'.csr with status := { s'.csr.status with
      mie := v.getLsbD 3, mprv := v.getLsbD s.cfg.layout.mstatusMprv } } }

/-- MCAUSE (10 R56, D35). -/
def State.writeMcause (s : State) (v : Word) : State :=
  let s' := s.writePrevious (v.getLsbD 27) (v.extractLsb' 28 2)
  { s' with csr := { s'.csr with cause := {
      interrupt := v.getLsbD 31, minhv := v.getLsbD 30, mpil := v.extractLsb' 16 8, code := v.extractLsb' 0 12 } } }

/-- MEXSTATUS: SOFT_RST, LPMD (2'b10 and 2'b11 ignored) and WFE; EXPT_VLD and LOCKUP are read-only (10 R85 to R90). -/
def State.writeMexstatus (s : State) (v : Word) : State :=
  let lpmd : BitVec 2 := v.extractLsb' s.cfg.layout.mexLpmd 2
  { s with csr := { s.csr with ex := { s.csr.ex with
      softRst := v.extractLsb' s.cfg.layout.mexSoftRst 2
      lpmd := if lpmd.getLsbD 1 then s.csr.ex.lpmd else lpmd
      lpmdWoken := if lpmd.getLsbD 1 then s.csr.ex.lpmdWoken else false
      wfe := v.getLsbD s.cfg.layout.mexWfe } } }

/-- One byte of a PMPCFG register: kept where the entry does not exist or is locked; bits 6:5 are reserved
(10 R63, 20 R147, D14). -/
def writePmpByte (count : Nat) (bytes : Vector Byte 16) (i : Fin 16) (v : Byte) : Vector Byte 16 :=
  if i.val < count ∧ pmpLocked bytes[i.val] = false then bytes.set i.val (v &&& 0x9F) else bytes

/-- PMPCFGk (10 R63, 20 R147). -/
def State.writePmpcfg (s : State) (k : Fin 4) (v : Word) : State :=
  let n := s.cfg.pmpEntries.toNat
  let b0 := writePmpByte n s.pmp.cfg ⟨4 * k.val, by omega⟩ (v.extractLsb' 0 8)
  let b1 := writePmpByte n b0 ⟨4 * k.val + 1, by omega⟩ (v.extractLsb' 8 8)
  let b2 := writePmpByte n b1 ⟨4 * k.val + 2, by omega⟩ (v.extractLsb' 16 8)
  { s with pmp := { s.pmp with cfg := writePmpByte n b2 ⟨4 * k.val + 3, by omega⟩ (v.extractLsb' 24 8) } }

/-- Entry `i` is locked in TOR mode, so the address register below it is locked too (20 R147). -/
def State.locksBelow (s : State) (i : Fin 16) : Bool :=
  if h : i.val + 1 < 16 then pmpLocked s.pmp.cfg[i.val + 1] && pmpMode s.pmp.cfg[i.val + 1] == 1#2 else false

/-- PMPADDRi (10 R64, 20 R147, D14). -/
def State.writePmpaddr (s : State) (i : Fin 16) (v : Word) : State :=
  if i.val < s.cfg.pmpEntries.toNat ∧ pmpLocked s.pmp.cfg[i.val] = false ∧ s.locksBelow i = false then
    { s with pmp := { s.pmp with addr := s.pmp.addr.set i.val v } }
  else s

/-- Whether MHCR.IE can be written (10 R83; log 22). -/
def State.icacheEnableWritable (s : State) : Bool := s.cfg.icacheSize != .none || s.cfg.mhcrIeWithoutCache

/-- What a write does, each register by its own rule (43 R300 step 7). A constant register ignores it (10 R35, D5). -/
def State.csrWrite (s : State) (r : Csr) (v : Word) : State :=
  match r with
  | .mvendorid | .marchid | .mimpid | .mhartid | .misa | .mie | .mip | .mintstatus | .mclicbase | .mraddr | .mcpuid
  | .mnxti | .mscratchcsw | .mscratchcswl => s
  | .mstatus => s.writeMstatus v
  | .mtvec => { s with csr := { s.csr with mtvecBase := v.extractLsb' 6 26, mtvecLowOpen := v.extractLsb' 2 4 != 0 } }
  | .mcounteren =>
    { s with csr := { s.csr with
        counterCy := v.getLsbD s.cfg.layout.mcounterenCy
        counterTm := v.getLsbD s.cfg.layout.mcounterenTm
        counterIr := v.getLsbD s.cfg.layout.mcounterenIr } }
  | .mtvt => { s with csr := { s.csr with mtvt := v.extractLsb' 6 26 } }
  | .mscratch => { s with csr := { s.csr with mscratch := v } }
  | .mepc => { s with csr := { s.csr with mepc := v &&& 0xFFFFFFFE } }
  | .mcause => s.writeMcause v
  | .mtval => { s with csr := { s.csr with mtval := v } }
  | .pmpcfg k => s.writePmpcfg k v
  | .pmpaddr i => s.writePmpaddr i v
  | .mcycle => { s with mcycle := s.mcycle.extractLsb' 32 32 ++ v }
  | .mcycleh => { s with mcycle := v ++ s.mcycle.extractLsb' 0 32 }
  | .minstret => { s with minstret := s.minstret.extractLsb' 32 32 ++ v }
  | .minstreth => { s with minstret := v ++ s.minstret.extractLsb' 0 32 }
  | .mxstatus => { s with csr := { s.csr with theadisaee := v.getLsbD 22 } }
  | .mhcr => if s.icacheEnableWritable then { s with csr := { s.csr with icacheEnable := v.getLsbD 0 } } else s
  | .mexstatus => s.writeMexstatus v
  | .mnmicause =>
    { s with csr := { s.csr with nmi := {
        intr := v.getLsbD s.cfg.layout.nmiIntr
        mpp := v.extractLsb' s.cfg.layout.nmiMpp 2
        mpie := v.getLsbD s.cfg.layout.nmiMpie
        vector := v.extractLsb' s.cfg.layout.nmiVector 12 } } }
  | .mnmipc => { s with csr := { s.csr with mnmipc := v &&& 0xFFFFFFFE } }

/-! ### The instructions' shared access -/

/-- The three kinds of read-modify-write. -/
inductive CsrOp where
  | write | set | clear
  deriving DecidableEq, Repr

/-- The value written (43 R302 to R307), with `CSRRWI_LOW5_ONLY` for CSRRWI. -/
def csrNew (c : Config) (op : CsrOp) (imm : Bool) (old operand : Word) : Word :=
  match op with
  | .write => if imm && c.csrrwiLow5Only then (old &&& 0xFFFFFFE0) ||| operand else operand
  | .set => old ||| operand
  | .clear => old &&& ~~~ operand

/-- Whether the instruction performs a write; `field` is bits 19:15 (43 R301). -/
def csrPerformsWrite (c : Config) (op : CsrOp) (field : BitVec 5) : Bool :=
  match op with
  | .write => !(c.csrWriteNoteLiteral && field == 0)
  | .set | .clear => field != 0

/-- Whether a write of this register sets MINSTRET, so that the writing instruction is not added (43 R309). -/
def Csr.isInstret : Csr → Bool
  | .minstret | .minstreth => true
  | .mvendorid | .marchid | .mimpid | .mhartid | .mstatus | .misa | .mie | .mtvec | .mcounteren | .mtvt | .mscratch
  | .mepc | .mcause | .mtval | .mip | .mnxti | .mintstatus | .mscratchcsw | .mscratchcswl | .mclicbase | .pmpcfg _
  | .pmpaddr _ | .mcycle | .mcycleh | .mxstatus | .mhcr | .mraddr | .mexstatus | .mnmicause | .mnmipc | .mcpuid => false

/-- Steps 6 to 8 of 43 R300. -/
def State.csrExchange (s : State) (r : Csr) (rd : Reg) (op : CsrOp) (imm : Bool) (operand : Word) (performs : Bool) :
    State :=
  let old := (s.csrRead r).1
  let s1 := (s.csrRead r).2
  let s2 := if performs then s1.csrWrite r (csrNew s.cfg op imm old operand) else s1
  let s3 := s2.setReg rd old
  if performs && r.isInstret then { s3 with pc := s3.pc + 4 } else s3.advance 4

/-- The conditional swap of MSCRATCHCSW and MSCRATCHCSWL (10 R51, R52; 43 R308; log 20). -/
def State.scratchSwap (s : State) (swap : Bool) (rd : Reg) (v : Word) : State :=
  if swap then (({ s with csr := { s.csr with mscratch := v } } : State).setReg rd s.csr.mscratch).advance 4
  else (s.setReg rd v).advance 4

/-- The interrupt an MNXTI read hands out: presented above MINTTHRESH, above MCAUSE.MPIL, not vectored (10 R58). -/
def State.nextInterrupt (s : State) : Option ClicSource :=
  match s.interruptRequest with
  | none => none
  | some x => if s.csr.cause.mpil < s.levelOf x && !x.shv then some x else none

/-- The read half of an MNXTI access with its effects (10 R58). -/
def State.claimNext (s : State) (rd : Reg) : State :=
  match s.nextInterrupt with
  | none => s.setReg rd 0
  | some x =>
    let s' := ({ s with csr := { s.csr with
        mil := s.levelOf x
        cause := { s.csr.cause with code := BitVec.ofNat 12 x.id } } } : State).setSource x.id ClicSource.acknowledge
    s'.setReg rd (s.vectorAddress x.id)

/-- MNXTI by CSRRSI or CSRRCI: first MSTATUS is written, then the next interrupt is claimed (43 R308). -/
def State.mnxtiAccess (s : State) (rd : Reg) (op : CsrOp) (operand : Word) : State :=
  ((s.writeMstatus (csrNew s.cfg op true s.mstatusWord operand)).claimNext rd).advance 4

/-- Whether an instruction has the one form MSCRATCHCSW and MSCRATCHCSWL describe, CSRRW with a destination; with x0 as the
destination only if the configuration says so (10 R51, R52, 43 R308, D28; log 20). -/
def swapForm (c : Config) (rd : Reg) (op : CsrOp) (imm : Bool) : Bool :=
  !imm && op == .write && (rd != 0 || c.scratchSwapWithoutRd)

/-- One CSR instruction `i` (43 R300, R308): `field` is bits 19:15, `imm` says whether they are an immediate. -/
def csrAccess (i : Instr) (rd : Reg) (number : BitVec 12) (op : CsrOp) (imm : Bool) (field : BitVec 5) (operand : Word)
    (s : State) : Result :=
  if s.priv ≠ .machine then raiseIllegal s i
  else match csr? number with
    | none => raiseIllegal s i
    | some .mnxti =>
      if imm && op != .write then .next (s.mnxtiAccess rd op operand) else .refused .csrForm
    | some .mscratchcsw =>
      if swapForm s.cfg rd op imm then .next (s.scratchSwap (s.csr.status.mpp != .machine) rd operand)
      else .refused .csrForm
    | some .mscratchcswl =>
      if swapForm s.cfg rd op imm then .next (s.scratchSwap ((s.csr.cause.mpil == 0) != (s.csr.mil == 0)) rd operand)
      else .refused .csrForm
    | some r =>
      if csrPerformsWrite s.cfg op field && r.writeTraps s.cfg then raiseIllegal s i
      else .next (s.csrExchange r rd op imm operand (csrPerformsWrite s.cfg op field))

end Sys2Proof.Machine
end

