-- ==== Sys2Proof/Machine/System.lean ====
section
/-! DEFINITION. The system instructions (43 R300 to R315) and the two T-HEAD cache instructions (46 R400 to R403). -/

namespace Sys2Proof.Machine

/-- No line has a copy (20 R166, R174). -/
def Icache.empty : Icache := { unspecified := false, lines := [] }

/-- FENCE: every access has already completed in program order, so only the pc moves (43 R314, 20 R165). -/
def execFence (_pred _succ : BitVec 4) (s : State) : Result := .next (s.advance 4)

/-- Whether FENCE.I empties the cache: present and on, or off where the configuration says so (43 R315; log 35). -/
def State.fenceIEmpties (s : State) : Bool :=
  s.cfg.icacheSize != .none && (s.csr.icacheEnable || s.cfg.fenceIEmptiesIdleCache)

/-- FENCE.I: the cache in use is emptied, and a fetch finds the hart's earlier stores (43 R315, 20 R166; log 35). -/
def execFenceI (s : State) : Result :=
  .next (({ s with icache := if s.fenceIEmpties then .empty else s.icache, stale := [] } : State).advance 4)

/-- ECALL (43 R310). -/
def execEcall (s : State) : Result := raise s (if s.priv = .user then .ecallU else .ecallM)

/-- The breakpoint exception, or debug mode (43 R311, D27; log 23). -/
def breakpoint (s : State) : Result :=
  if s.cfg.ebreakEntersDebug then .next { s with debugMode := true } else raise s .breakpoint

/-- EBREAK (43 R311). -/
def execEbreak (s : State) : Result := breakpoint s

/-- MRET (43 R312; 60 R440, R474). -/
def execMret (s : State) : Result :=
  if s.priv ≠ .machine then raiseIllegal s .mret
  else if s.inNmi then .next s.nmiReturn
  else .next s.trapReturn

/-- WFI (43 R313, 60 R510). -/
def execWfi (s : State) : Result :=
  if s.priv ≠ .machine then raiseIllegal s .wfi
  else .next { s.advance 4 with sleeping := true }

/-- CSRRW (43 R302). -/
def execCsrrw (rd : Reg) (number : BitVec 12) (rs1 : Reg) (s : State) : Result :=
  csrAccess (.csrrw rd number rs1) rd number .write false (regBits rs1) (s.reg rs1) s

/-- CSRRS (43 R303). -/
def execCsrrs (rd : Reg) (number : BitVec 12) (rs1 : Reg) (s : State) : Result :=
  csrAccess (.csrrs rd number rs1) rd number .set false (regBits rs1) (s.reg rs1) s

/-- CSRRC (43 R304). -/
def execCsrrc (rd : Reg) (number : BitVec 12) (rs1 : Reg) (s : State) : Result :=
  csrAccess (.csrrc rd number rs1) rd number .clear false (regBits rs1) (s.reg rs1) s

/-- CSRRWI (43 R305). -/
def execCsrrwi (rd : Reg) (number : BitVec 12) (imm : BitVec 5) (s : State) : Result :=
  csrAccess (.csrrwi rd number imm) rd number .write true imm (zext5 imm) s

/-- CSRRSI (43 R306). -/
def execCsrrsi (rd : Reg) (number : BitVec 12) (imm : BitVec 5) (s : State) : Result :=
  csrAccess (.csrrsi rd number imm) rd number .set true imm (zext5 imm) s

/-- CSRRCI (43 R307). -/
def execCsrrci (rd : Reg) (number : BitVec 12) (imm : BitVec 5) (s : State) : Result :=
  csrAccess (.csrrci rd number imm) rd number .clear true imm (zext5 imm) s

/-- The cache instructions run in machine mode with MXSTATUS.THEADISAEE = 1 (46 R400). -/
def State.cacheOpsEnabled (s : State) : Bool := s.priv == .machine && s.csr.theadisaee

/-- ICACHE.IALL (46 R401). -/
def execIcacheIall (s : State) : Result :=
  if s.cacheOpsEnabled then .next (({ s with icache := .empty } : State).advance 4) else raiseIllegal s .icacheIall

/-- ICACHE.IPA (46 R402). -/
def execIcacheIpa (rs1 : Reg) (s : State) : Result :=
  if s.cacheOpsEnabled then
    .next (({ s with icache := s.icache.put (lineOf (s.reg rs1)) none } : State).advance 4)
  else raiseIllegal s (.icacheIpa rs1)

end Sys2Proof.Machine
end

