-- ==== Sys2Proof/Machine/Compressed.lean ====
section
/-! DEFINITION. The compressed instructions (45 R350 to R382): two bytes long, link value `pc + 2`. -/

namespace Sys2Proof.Machine

/-- C.ADD (45 R356). -/
def execCAdd (rd rs2 : Reg) (s : State) : Result :=
  setAdvance s rd (s.reg rd + s.reg rs2) 2

/-- C.ADDI (45 R357). -/
def execCAddi (rd : Reg) (imm : BitVec 6) (s : State) : Result :=
  setAdvance s rd (s.reg rd + sext6 imm) 2

/-- C.ADDI4SPN (45 R358). -/
def execCAddi4spn (rd : CReg) (imm : BitVec 8) (s : State) : Result :=
  setAdvance s (cr rd) (s.reg 2 + addi4spnImm imm) 2

/-- C.ADDI16SP (45 R359). -/
def execCAddi16sp (imm : BitVec 6) (s : State) : Result :=
  setAdvance s 2 (s.reg 2 + addi16spImm imm) 2

/-- C.AND (45 R360). -/
def execCAnd (rd rs2 : CReg) (s : State) : Result :=
  setAdvance s (cr rd) (s.reg (cr rd) &&& s.reg (cr rs2)) 2

/-- C.ANDI (45 R361). -/
def execCAndi (rd : CReg) (imm : BitVec 6) (s : State) : Result :=
  setAdvance s (cr rd) (s.reg (cr rd) &&& sext6 imm) 2

/-- C.BEQZ (45 R362). -/
def execCBeqz (rs1 : CReg) (imm : BitVec 8) (s : State) : Result :=
  branch s (s.reg (cr rs1) == 0) (cbOffset imm) 2

/-- C.BNEZ (45 R363). -/
def execCBnez (rs1 : CReg) (imm : BitVec 8) (s : State) : Result :=
  branch s (s.reg (cr rs1) != 0) (cbOffset imm) 2

/-- C.EBREAK (45 R364). -/
def execCEbreak (s : State) : Result :=
  breakpoint s

/-- C.J (45 R365). -/
def execCJ (imm : BitVec 11) (s : State) : Result :=
  .next (s.retire (s.pc + cjOffset imm))

/-- C.JAL (45 R366). -/
def execCJal (imm : BitVec 11) (s : State) : Result :=
  jumpLink s 1 (s.pc + cjOffset imm) 2

/-- C.JALR (45 R367). -/
def execCJalr (rs1 : Reg) (s : State) : Result :=
  jumpLink s 1 (evenTarget (s.reg rs1)) 2

/-- C.JR (45 R368). -/
def execCJr (rs1 : Reg) (s : State) : Result :=
  .next (s.retire (evenTarget (s.reg rs1)))

/-- C.LI (45 R369). -/
def execCLi (rd : Reg) (imm : BitVec 6) (s : State) : Result :=
  setAdvance s rd (sext6 imm) 2

/-- C.LUI (45 R370). -/
def execCLui (rd : Reg) (imm : BitVec 6) (s : State) : Result :=
  setAdvance s rd (cLuiImm imm) 2

/-- C.LW (45 R371). -/
def execCLw (rd rs1 : CReg) (imm : BitVec 5) (s : State) : Result :=
  load s (cr rd) (s.reg (cr rs1) + clwOffset imm) .word id 2

/-- C.LWSP (45 R372). -/
def execCLwsp (rd : Reg) (imm : BitVec 6) (s : State) : Result :=
  load s rd (s.reg 2 + spOffset imm) .word id 2

/-- C.MV (45 R373). -/
def execCMv (rd rs2 : Reg) (s : State) : Result :=
  setAdvance s rd (s.reg rs2) 2

/-- C.NOP (45 R374). -/
def execCNop (s : State) : Result :=
  .next (s.advance 2)

/-- C.OR (45 R375). -/
def execCOr (rd rs2 : CReg) (s : State) : Result :=
  setAdvance s (cr rd) (s.reg (cr rd) ||| s.reg (cr rs2)) 2

/-- C.SLLI (45 R376). -/
def execCSlli (rd : Reg) (shamt : BitVec 5) (s : State) : Result :=
  setAdvance s rd (s.reg rd <<< shamt.toNat) 2

/-- C.SRAI (45 R377). -/
def execCSrai (rd : CReg) (shamt : BitVec 5) (s : State) : Result :=
  setAdvance s (cr rd) (shiftRightArith (s.reg (cr rd)) shamt.toNat) 2

/-- C.SRLI (45 R378). -/
def execCSrli (rd : CReg) (shamt : BitVec 5) (s : State) : Result :=
  setAdvance s (cr rd) (s.reg (cr rd) >>> shamt.toNat) 2

/-- C.SW (45 R379). -/
def execCSw (rs2 rs1 : CReg) (imm : BitVec 5) (s : State) : Result :=
  store s (s.reg (cr rs1) + clwOffset imm) .word (s.reg (cr rs2)) 2

/-- C.SWSP (45 R380). -/
def execCSwsp (rs2 : Reg) (imm : BitVec 6) (s : State) : Result :=
  store s (s.reg 2 + spOffset imm) .word (s.reg rs2) 2

/-- C.SUB (45 R381). -/
def execCSub (rd rs2 : CReg) (s : State) : Result :=
  setAdvance s (cr rd) (s.reg (cr rd) - s.reg (cr rs2)) 2

/-- C.XOR (45 R382). -/
def execCXor (rd rs2 : CReg) (s : State) : Result :=
  setAdvance s (cr rd) (s.reg (cr rd) ^^^ s.reg (cr rs2)) 2

end Sys2Proof.Machine
end

