-- ==== Sys2Proof/Machine/MulDiv.lean ====
section
/-! DEFINITION. The multiply and divide instructions (44 R330 to R339). Products and quotients are computed exactly on
integers and narrowed at the end. -/

namespace Sys2Proof.Machine

/-- Bits 31:0 of a product (44 R332). -/
def lowWord (p : Int) : Word := BitVec.ofInt 32 p

/-- Bits 63:32 of a product (44 R333 to R335). -/
def highWord (p : Int) : Word := BitVec.ofInt 32 (p / 4294967296)

/-- The one overflow of a division: -2^31 by -1 (44 section 3, log 29). -/
def divOverflows (a b : Word) : Bool := a == 0x80000000 && b == 0xFFFFFFFF

/-- The signed quotient, rounded toward zero (44 R336, log 29). -/
def quotientSigned (a b : Word) : Word :=
  if b = 0 then 0xFFFFFFFF
  else if divOverflows a b then 0x80000000
  else BitVec.ofInt 32 (a.toInt.tdiv b.toInt)

/-- The unsigned quotient (44 R337). -/
def quotientUnsigned (a b : Word) : Word :=
  if b = 0 then 0xFFFFFFFF else BitVec.ofNat 32 (a.toNat / b.toNat)

/-- The signed remainder, with the sign of the dividend (44 R338, log 29). -/
def remainderSigned (a b : Word) : Word :=
  if b = 0 then a
  else if divOverflows a b then 0
  else BitVec.ofInt 32 (a.toInt - b.toInt * a.toInt.tdiv b.toInt)

/-- The unsigned remainder (44 R339). -/
def remainderUnsigned (a b : Word) : Word :=
  if b = 0 then a else BitVec.ofNat 32 (a.toNat % b.toNat)

/-- An instruction of the family: illegal without the hardware multiplier (44 R330, D9). -/
def mulDiv (i : Instr) (rd : Reg) (v : Word) (s : State) : Result :=
  if s.cfg.hasM then setAdvance s rd v 4 else raiseIllegal s i

/-- MUL (44 R332). -/
def execMul (rd rs1 rs2 : Reg) (s : State) : Result :=
  mulDiv (.mul rd rs1 rs2) rd (lowWord ((s.reg rs1).toInt * (s.reg rs2).toInt)) s

/-- MULH (44 R333). -/
def execMulh (rd rs1 rs2 : Reg) (s : State) : Result :=
  mulDiv (.mulh rd rs1 rs2) rd (highWord ((s.reg rs1).toInt * (s.reg rs2).toInt)) s

/-- MULHSU (44 R334). -/
def execMulhsu (rd rs1 rs2 : Reg) (s : State) : Result :=
  mulDiv (.mulhsu rd rs1 rs2) rd (highWord ((s.reg rs1).toInt * ((s.reg rs2).toNat : Int))) s

/-- MULHU (44 R335). -/
def execMulhu (rd rs1 rs2 : Reg) (s : State) : Result :=
  mulDiv (.mulhu rd rs1 rs2) rd (highWord (((s.reg rs1).toNat : Int) * ((s.reg rs2).toNat : Int))) s

/-- DIV (44 R336). -/
def execDiv (rd rs1 rs2 : Reg) (s : State) : Result :=
  mulDiv (.div rd rs1 rs2) rd (quotientSigned (s.reg rs1) (s.reg rs2)) s

/-- DIVU (44 R337). -/
def execDivu (rd rs1 rs2 : Reg) (s : State) : Result :=
  mulDiv (.divu rd rs1 rs2) rd (quotientUnsigned (s.reg rs1) (s.reg rs2)) s

/-- REM (44 R338). -/
def execRem (rd rs1 rs2 : Reg) (s : State) : Result :=
  mulDiv (.rem rd rs1 rs2) rd (remainderSigned (s.reg rs1) (s.reg rs2)) s

/-- REMU (44 R339). -/
def execRemu (rd rs1 rs2 : Reg) (s : State) : Result :=
  mulDiv (.remu rd rs1 rs2) rd (remainderUnsigned (s.reg rs1) (s.reg rs2)) s

end Sys2Proof.Machine
end

