-- ==== Sys2Proof/Machine/Dispatch.lean ====
section
/-! DEFINITION. The meaning of each instruction, one arm per constructor. -/

namespace Sys2Proof.Machine

def exec (i : Instr) (s : State) : Host.Outcome State Fault Refusal :=
  match i with
  | .lui rd imm20 => Sys2Proof.Machine.execLui rd imm20 s
  | .auipc rd imm20 => Sys2Proof.Machine.execAuipc rd imm20 s
  | .jal rd imm20 => Sys2Proof.Machine.execJal rd imm20 s
  | .jalr rd rs1 imm12 => Sys2Proof.Machine.execJalr rd rs1 imm12 s
  | .beq rs1 rs2 imm12 => Sys2Proof.Machine.execBeq rs1 rs2 imm12 s
  | .bne rs1 rs2 imm12 => Sys2Proof.Machine.execBne rs1 rs2 imm12 s
  | .blt rs1 rs2 imm12 => Sys2Proof.Machine.execBlt rs1 rs2 imm12 s
  | .bge rs1 rs2 imm12 => Sys2Proof.Machine.execBge rs1 rs2 imm12 s
  | .bltu rs1 rs2 imm12 => Sys2Proof.Machine.execBltu rs1 rs2 imm12 s
  | .bgeu rs1 rs2 imm12 => Sys2Proof.Machine.execBgeu rs1 rs2 imm12 s
  | .lb rd rs1 imm12 => Sys2Proof.Machine.execLb rd rs1 imm12 s
  | .lh rd rs1 imm12 => Sys2Proof.Machine.execLh rd rs1 imm12 s
  | .lw rd rs1 imm12 => Sys2Proof.Machine.execLw rd rs1 imm12 s
  | .lbu rd rs1 imm12 => Sys2Proof.Machine.execLbu rd rs1 imm12 s
  | .lhu rd rs1 imm12 => Sys2Proof.Machine.execLhu rd rs1 imm12 s
  | .sb rs2 rs1 imm12 => Sys2Proof.Machine.execSb rs2 rs1 imm12 s
  | .sh rs2 rs1 imm12 => Sys2Proof.Machine.execSh rs2 rs1 imm12 s
  | .sw rs2 rs1 imm12 => Sys2Proof.Machine.execSw rs2 rs1 imm12 s
  | .addi rd rs1 imm12 => Sys2Proof.Machine.execAddi rd rs1 imm12 s
  | .slti rd rs1 imm12 => Sys2Proof.Machine.execSlti rd rs1 imm12 s
  | .sltiu rd rs1 imm12 => Sys2Proof.Machine.execSltiu rd rs1 imm12 s
  | .xori rd rs1 imm12 => Sys2Proof.Machine.execXori rd rs1 imm12 s
  | .ori rd rs1 imm12 => Sys2Proof.Machine.execOri rd rs1 imm12 s
  | .andi rd rs1 imm12 => Sys2Proof.Machine.execAndi rd rs1 imm12 s
  | .slli rd rs1 shamt5 => Sys2Proof.Machine.execSlli rd rs1 shamt5 s
  | .srli rd rs1 shamt5 => Sys2Proof.Machine.execSrli rd rs1 shamt5 s
  | .srai rd rs1 shamt5 => Sys2Proof.Machine.execSrai rd rs1 shamt5 s
  | .add rd rs1 rs2 => Sys2Proof.Machine.execAdd rd rs1 rs2 s
  | .sub rd rs1 rs2 => Sys2Proof.Machine.execSub rd rs1 rs2 s
  | .sll rd rs1 rs2 => Sys2Proof.Machine.execSll rd rs1 rs2 s
  | .slt rd rs1 rs2 => Sys2Proof.Machine.execSlt rd rs1 rs2 s
  | .sltu rd rs1 rs2 => Sys2Proof.Machine.execSltu rd rs1 rs2 s
  | .xor rd rs1 rs2 => Sys2Proof.Machine.execXor rd rs1 rs2 s
  | .srl rd rs1 rs2 => Sys2Proof.Machine.execSrl rd rs1 rs2 s
  | .sra rd rs1 rs2 => Sys2Proof.Machine.execSra rd rs1 rs2 s
  | .or rd rs1 rs2 => Sys2Proof.Machine.execOr rd rs1 rs2 s
  | .and rd rs1 rs2 => Sys2Proof.Machine.execAnd rd rs1 rs2 s
  | .mul rd rs1 rs2 => Sys2Proof.Machine.execMul rd rs1 rs2 s
  | .mulh rd rs1 rs2 => Sys2Proof.Machine.execMulh rd rs1 rs2 s
  | .mulhsu rd rs1 rs2 => Sys2Proof.Machine.execMulhsu rd rs1 rs2 s
  | .mulhu rd rs1 rs2 => Sys2Proof.Machine.execMulhu rd rs1 rs2 s
  | .div rd rs1 rs2 => Sys2Proof.Machine.execDiv rd rs1 rs2 s
  | .divu rd rs1 rs2 => Sys2Proof.Machine.execDivu rd rs1 rs2 s
  | .rem rd rs1 rs2 => Sys2Proof.Machine.execRem rd rs1 rs2 s
  | .remu rd rs1 rs2 => Sys2Proof.Machine.execRemu rd rs1 rs2 s
  | .fence pred succ => Sys2Proof.Machine.execFence pred succ s
  | .fenceI => Sys2Proof.Machine.execFenceI s
  | .ecall => Sys2Proof.Machine.execEcall s
  | .ebreak => Sys2Proof.Machine.execEbreak s
  | .mret => Sys2Proof.Machine.execMret s
  | .wfi => Sys2Proof.Machine.execWfi s
  | .csrrw rd csr rs1 => Sys2Proof.Machine.execCsrrw rd csr rs1 s
  | .csrrs rd csr rs1 => Sys2Proof.Machine.execCsrrs rd csr rs1 s
  | .csrrc rd csr rs1 => Sys2Proof.Machine.execCsrrc rd csr rs1 s
  | .csrrwi rd csr imm5 => Sys2Proof.Machine.execCsrrwi rd csr imm5 s
  | .csrrsi rd csr imm5 => Sys2Proof.Machine.execCsrrsi rd csr imm5 s
  | .csrrci rd csr imm5 => Sys2Proof.Machine.execCsrrci rd csr imm5 s
  | .icacheIall => Sys2Proof.Machine.execIcacheIall s
  | .icacheIpa rs1 => Sys2Proof.Machine.execIcacheIpa rs1 s
  | .cAddi4spn rd nzuimm8 => Sys2Proof.Machine.execCAddi4spn rd nzuimm8 s
  | .cLw rd rs1 uimm5 => Sys2Proof.Machine.execCLw rd rs1 uimm5 s
  | .cSw rs2 rs1 uimm5 => Sys2Proof.Machine.execCSw rs2 rs1 uimm5 s
  | .cNop => Sys2Proof.Machine.execCNop s
  | .cAddi rd nzimm6 => Sys2Proof.Machine.execCAddi rd nzimm6 s
  | .cJal imm11 => Sys2Proof.Machine.execCJal imm11 s
  | .cLi rd imm6 => Sys2Proof.Machine.execCLi rd imm6 s
  | .cAddi16sp nzimm6 => Sys2Proof.Machine.execCAddi16sp nzimm6 s
  | .cLui rd nzimm6 => Sys2Proof.Machine.execCLui rd nzimm6 s
  | .cSrli rd shamt5 => Sys2Proof.Machine.execCSrli rd shamt5 s
  | .cSrai rd shamt5 => Sys2Proof.Machine.execCSrai rd shamt5 s
  | .cAndi rd imm6 => Sys2Proof.Machine.execCAndi rd imm6 s
  | .cSub rd rs2 => Sys2Proof.Machine.execCSub rd rs2 s
  | .cXor rd rs2 => Sys2Proof.Machine.execCXor rd rs2 s
  | .cOr rd rs2 => Sys2Proof.Machine.execCOr rd rs2 s
  | .cAnd rd rs2 => Sys2Proof.Machine.execCAnd rd rs2 s
  | .cJ imm11 => Sys2Proof.Machine.execCJ imm11 s
  | .cBeqz rs1 imm8 => Sys2Proof.Machine.execCBeqz rs1 imm8 s
  | .cBnez rs1 imm8 => Sys2Proof.Machine.execCBnez rs1 imm8 s
  | .cSlli rd shamt5 => Sys2Proof.Machine.execCSlli rd shamt5 s
  | .cLwsp rd uimm6 => Sys2Proof.Machine.execCLwsp rd uimm6 s
  | .cJr rs1 => Sys2Proof.Machine.execCJr rs1 s
  | .cMv rd rs2 => Sys2Proof.Machine.execCMv rd rs2 s
  | .cEbreak => Sys2Proof.Machine.execCEbreak s
  | .cJalr rs1 => Sys2Proof.Machine.execCJalr rs1 s
  | .cAdd rd rs2 => Sys2Proof.Machine.execCAdd rd rs2 s
  | .cSwsp rs2 uimm6 => Sys2Proof.Machine.execCSwsp rs2 uimm6 s

end Sys2Proof.Machine
end

