-- ==== Sys2Proof/Machine/Host.lean ====
section
/-! DEFINITION. What the host does between two steps (70 R520, R550; 60 R500 to R505; log 9, 23, 24, 30), and the output
pins of the core as functions of the state. -/

namespace Sys2Proof.Machine

/-- Reset: every piece of state of 10 R110 takes its reset value; memory, the pins, the debug unit, and the model's own
schedule, stale parcels and draws stay, and the counter shows what the platform supplies (70 R520, R523, R524; log 30). -/
def State.afterReset (s : State) (sysCnt : BitVec 64) : State :=
  { State.resetWith s.cfg with
    mem := s.mem
    inputs := { s.inputs with sysCnt := sysCnt }
    had := s.had
    schedule := s.schedule
    stale := s.stale
    draws := s.draws }

/-- `DebugEntry()`: the core stops in debug mode, waking first if it sleeps (60 R500, R511, R512). -/
def State.debugEntry (s : State) : State :=
  { s with
    debugMode := true
    sleeping := false
    csr := { s.csr with ex := { s.csr.ex with lpmdWoken := s.csr.ex.lpmdWoken || s.sleeping } } }

/-- The resume pc that leaves a locked core locked (60 R435). -/
def stayLockedPc : Word := 0xEFFFFFFC

/-- `DebugExit(resume_pc)` (60 R435). With the marker pc and LOCKUP = 1 the core stays as it was when debug mode was entered:
locked, or, DESIGN CHOICE, in the NMI handler that was entered from the lockup (log 23). -/
def State.debugLeave (s : State) (resumePc : Word) : State :=
  if s.csr.ex.lockup && resumePc == stayLockedPc then { s with debugMode := false }
  else if s.csr.ex.lockup then
    { s with
      debugMode := false
      pc := resumePc &&& 0xFFFFFFFE
      lockupNmi := false
      csr := { s.csr with ex := { s.csr.ex with lockup := false, exptVld := false } } }
  else { s with debugMode := false, pc := resumePc &&& 0xFFFFFFFE }

/-- A store from outside the hart, not checked by the PMP (20 R153, R177): it changes memory or a TCIP register; what the
bus or the register map does not accept changes nothing. -/
def State.outsideStore (s : State) (a : Word) (size : AccessSize) (v : Word) : State :=
  if !aligned a size then s
  else if inTcip a then (s.tcipWrite a size v).getD s
  else if s.busError a size .store then s
  else s.writeBytes a size v

/-- The access size of a DACSR code; 3'b011 to 3'b111 are reserved (60 R504). -/
def ddmaSize (code : BitVec 3) : Option AccessSize :=
  if code = 0#3 then some .byte
  else if code = 1#3 then some .half
  else if code = 2#3 then some .word
  else none

/-- A transfer has ended: its error bit, and in increase mode the next address (60 R504). -/
def Had.transferred (h : Had) (size : AccessSize) (error : Bool) : Had :=
  { h with
    error := error
    datr := if h.transMode = 1#3 then h.datr + BitVec.ofNat 32 size.bytes else h.datr }

/-- A DDMA write transfer of `v` at DATR (60 R504; log 24). DESIGN CHOICE: a byte or half word transfer writes the low bits
of DARWR; in the TCIP region a transfer reaches the CLINT and CLIC registers as a machine-mode store does, and is refused where
those are (log 24). -/
def State.ddmaWrite (s : State) (v : Word) : Except Refusal State :=
  if !s.had.ddae then .ok s
  else match ddmaSize s.had.transSize, decide (s.had.transMode ≤ 1#3) with
    | some size, true =>
      if inTcip s.had.datr then
        match if aligned s.had.datr size then s.tcipWrite s.had.datr size v else none with
        | some s' => .ok { s' with had := s'.had.transferred size false }
        | none => .error .tcipAccess
      else if s.busError s.had.datr size .store then .ok { s with had := s.had.transferred size true }
      else
        let s' := s.writeBytes s.had.datr size v
        .ok { s' with had := s'.had.transferred size false }
    | _, _ => .error .ddmaReserved

/-- A read transfer has ended normally with this datum: DATA PHASE is set in single mode (60 R504). -/
def Had.received (h : Had) (size : AccessSize) (v : Word) : Had :=
  { h.transferred size false with data := v, dataPhase := h.transMode == 0#3 || h.dataPhase }

/-- The kind of access a DDMA read makes: TRANS PROT bit 0 (60 R504). -/
def Had.readKind (h : Had) : AccessKind := if h.transProt.getLsbD 0 then .load else .fetch

/-- A read of DARWR: with DATA PHASE 1 it clears DATA PHASE and starts nothing, else it starts a read transfer
(60 R504, R505; log 24). DESIGN CHOICE: the datum of a byte or half word transfer stands in the low bits of DARWR, the others 0;
in the TCIP region a transfer reads the CLINT and CLIC registers (log 24). -/
def State.ddmaRead (s : State) : Except Refusal State :=
  if s.had.dataPhase then .ok { s with had := { s.had with dataPhase := false } }
  else if !s.had.ddae then .ok s
  else match ddmaSize s.had.transSize, decide (s.had.transMode ≤ 1#3) with
    | some size, true =>
      if inTcip s.had.datr then
        match if aligned s.had.datr size then s.tcipRead s.had.datr size else none with
        | some v => .ok { s with had := s.had.received size v }
        | none => .error .tcipAccess
      else if s.busError s.had.datr size s.had.readKind then .ok { s with had := s.had.transferred size true }
      else .ok { s with had := s.had.received size (Memory.readLE s.mem s.had.datr size.bytes) }
    | _, _ => .error .ddmaReserved

/-! ### The words of the debug unit's registers (60 R504; positions: log 24) -/

/-- TRANS BUSY: a transfer completes within its event, so none is ever unfinished (log 24). -/
def Had.transBusy (_ : Had) : Bool := false

/-- HCR as it reads: DDAE is bit 29; the other bits are not described and read 0. -/
def Had.hcrWord (h : Had) : Word := placeField (boolBit h.ddae) 29

/-- A write of HCR. -/
def Had.writeHcr (h : Had) (v : Word) : Had := { h with ddae := v.getLsbD 29 }

/-- DACSR as it reads: TRANS MODE in bits 2:0, TRANS SIZE in bits 6:4, the other fields where the layout says. -/
def Had.dacsrWord (h : Had) (l : Layout) : Word :=
  placeField h.transMode 0 ||| placeField h.transSize 4 ||| placeField h.transProt l.dacsrProt |||
    placeField (boolBit h.transBusy) l.dacsrBusy ||| placeField (boolBit h.error) l.dacsrError |||
    placeField (boolBit h.dataPhase) l.dacsrDataPhase

/-- A write of DACSR: TRANS BUSY and TRANS ERROR are read-only, TRANS PROT bit 2 is fixed to non-secure. -/
def Had.writeDacsr (h : Had) (l : Layout) (v : Word) : Had :=
  { h with
    transMode := v.extractLsb' 0 3
    transSize := v.extractLsb' 4 3
    transProt := v.extractLsb' l.dacsrProt 4 &&& 0xB
    dataPhase := v.getLsbD l.dacsrDataPhase }

/-! ### Replacing the state (60 R500; log 23) -/

/-- The modes that exist (10 R29, R42). -/
def legalPriv (c : Config) (p : Priv) : Priv := if c.hasUmode then p else .machine

/-- Control registers with the bits that are constant on this core as they are: MEPC and MNMIPC even, MPP a mode that
exists, LPMD never 2'b10 or 2'b11 (10 R42, R54, R87, R92). -/
def Csrs.legal (x : Csrs) (c : Config) : Csrs :=
  { x with
    mepc := x.mepc &&& 0xFFFFFFFE
    mnmipc := x.mnmipc &&& 0xFFFFFFFE
    status := { x.status with mpp := legalPriv c x.status.mpp }
    ex := { x.ex with lpmd := if x.ex.lpmd.getLsbD 1 then 0 else x.ex.lpmd } }

/-- PMP registers with reserved bits and absent entries 0 (10 R63, D14). -/
def Pmp.legal (p : Pmp) (count : Nat) : Pmp where
  cfg := Vector.ofFn fun i => if i.val < count then p.cfg[i.val] &&& 0x9F else 0
  addr := Vector.ofFn fun i => if i.val < count then p.addr[i.val] else 0

/-- A CLIC that takes over the other's registers, each source keeping its id and its tied bits (60 R442, R468). -/
def Clic.replacedBy (x y : Clic) (c : Config) : Clic :=
  { y with sources := x.sources.map fun a =>
      match y.sources.find? (fun b => b.id == a.id) with
      | none => a
      | some b => { b with id := a.id, ctl := b.ctl ||| (0xFF#8 >>> c.ctlBits.toNat) } }

/-- Memory with some bytes changed; in the TCIP region there is none. -/
def Memory.patch (m : List Host.Cell) (l : List (Word × Byte)) : List Host.Cell :=
  l.foldl (fun m x => if inTcip x.1 then m else Memory.write m x.1.toNat x.2) m

/-- The state the debugger replaces this one by, whatever the protection; bits that are constant on this core keep their
value. -/
def State.replacedBy (s : State) (m : Snapshot) : State :=
  { s with
    regs := m.regs.set 0 s.regs[0]
    pc := m.pc &&& 0xFFFFFFFE
    priv := legalPriv s.cfg m.priv
    csr := m.csr.legal s.cfg
    mcycle := m.mcycle
    minstret := m.minstret
    mcpuidNext := m.mcpuidNext
    pmp := m.pmp.legal s.cfg.pmpEntries.toNat
    clint := m.clint
    clic := s.clic.replacedBy m.clic s.cfg
    icache := m.icache
    stale := m.stale
    sleeping := m.sleeping
    nmiPending := m.nmiPending
    lockupNmi := m.lockupNmi
    mem := Memory.patch s.mem m.mem }

/-! ### Events -/

/-- The system counter after the platform supplies `new`: it never decreases but by wrapping from 2^64 - 1 to 0
(60 R458, D45). -/
def countOn (old new : BitVec 64) : BitVec 64 :=
  if old ≤ new ∨ (old = BitVec.allOnes 64 ∧ new = 0) then new else old

/-- An event that acts only in debug mode. -/
def State.inDebug (s : State) (f : State → State) : State := if s.debugMode then f s else s

/-- One host event. -/
def State.hostEvent (s : State) : HostEvent → Except Refusal State
  | .inputs i => .ok { s with inputs := { i with sysCnt := countOn s.inputs.sysCnt i.sysCnt } }
  | .reset sysCnt => .ok (s.afterReset sysCnt)
  | .debugRequest => .ok s.debugEntry
  | .debugExit resumePc => .ok (s.inDebug fun s => s.debugLeave resumePc)
  | .debugReg r v => .ok (s.inDebug fun s => s.setReg r v)
  | .debugCsr number v => .ok (s.inDebug fun s => ((csr? number).map fun r => s.csrWrite r v).getD s)
  | .debugExptVld v => .ok (s.inDebug fun s => { s with csr := { s.csr with ex := { s.csr.ex with exptVld := v } } })
  | .debugPriv p => .ok (s.inDebug fun s => if p = .user ∧ s.cfg.hasUmode = false then s else { s with priv := p })
  | .debugReplace m => .ok (s.inDebug fun s => s.replacedBy m)
  | .debugStore addr size v => .ok (s.inDebug fun s => s.outsideStore addr size v)
  | .masterWrite addr v => .ok (if inTcip addr then s else s.writeBytes addr .byte (v.setWidth 32))
  | .hadReset => .ok { s with had := .afterReset }
  | .hadHcr v => .ok { s with had := s.had.writeHcr v }
  | .hadDatr v => .ok { s with had := { s.had with datr := v } }
  | .hadDacsr v => .ok { s with had := s.had.writeDacsr s.cfg.layout v }
  | .hadWriteDarwr v => s.ddmaWrite v
  | .hadReadDarwr => s.ddmaRead

/-- The events of one boundary, in order. -/
def State.hostEvents (s : State) : List HostEvent → Except Refusal State
  | [] => .ok s
  | e :: rest =>
    match s.hostEvent e with
    | .ok s' => s'.hostEvents rest
    | .error r => .error r

/-- What the host does at this boundary: the first list of the schedule (log 9). It comes before the sampling, so no edge
has been seen in this step yet (60 R415; log 15). -/
def State.hostTurn (s : State) : Except Refusal State :=
  match s.schedule with
  | [] => .ok s
  | now :: later => ({ s with schedule := later } : State).forgetEdges.hostEvents now

/-! ### Outputs -/

/-- Stuck: locked up and not in an NMI handler entered from the lockup (60 R433, R434). -/
def State.locked (s : State) : Bool := s.csr.ex.lockup && !s.lockupNmi

/-- `cpu_pad_lockup` (60 R433). -/
def State.cpuPadLockup (s : State) : Bool := s.locked && !s.debugMode

/-- `cpu_pad_srst[1:0]` (70 R526). -/
def State.cpuPadSrst (s : State) : BitVec 2 := s.csr.ex.softRst

/-- `sysio_pad_lpmd_b[1:0]` (60 R513). -/
def State.sysioPadLpmdB (s : State) : BitVec 2 := if s.sleeping then s.csr.ex.lpmd else 3

/-- `had_pad_jdb_pm[1:0]` (60 R503). -/
def State.hadPadJdbPm (s : State) : BitVec 2 := if s.debugMode then 2 else if s.sleeping then 1 else 0

end Sys2Proof.Machine
end

