-- ==== Sys2Proof/Machine/Cycle.lean ====
section
/-! DEFINITION. The order of things at one boundary (60 R415): host, sampling, debug mode, lockup, sleep, NMI, interrupt,
and at last the instruction at the pc, fetched by halves (20 R162). -/

namespace Sys2Proof.Machine

/-- `Fetch(pc)`: the code at the pc, and the state after what the fetch drew and filled (20 R162). -/
def State.fetch (s : State) : Access Code × State :=
  match s.fetchHalf s.pc with
  | .raised e => (.raised e, s)
  | .refused r => (.refused r, s)
  | .ok (p0, s1) =>
    if p0.extractLsb' 0 2 = 3#2 then
      match s1.fetchHalf (s.pc + 2) with
      | .raised e => (.raised e, s1)
      | .refused r => (.refused r, s1)
      | .ok (p1, s2) => (.ok (codeOfParcels p0 p1), s2)
    else (.ok (codeOfParcels p0 0), s1)

/-- Item 6 of 60 R415: fetch, decode, execute. -/
def State.runInstruction (s : State) : Result :=
  match s.fetch with
  | (.raised e, s') => raise s' e
  | (.refused r, _) => .refused r
  | (.ok code, s') =>
    match decodeCode s'.cfg code with
    | .instr i => exec i s'
    | .illegal => raise s' (.illegal code.toWord)
    | .constraint => .refused .rvcConstraint

/-- Items 4 to 6 of 60 R415. -/
def State.boundary (s : State) : Result :=
  if s.nmiPending && !s.inNmi then .next s.nmiEntry
  else match s.interruptToTake with
    | some x => interruptEntry s x
    | none => s.runInstruction

/-- The core leaves the low-power state (60 R415 item 3, 10 R87). -/
def State.wakeUp (s : State) : State :=
  if s.sleeping then
    { s with sleeping := false, csr := { s.csr with ex := { s.csr.ex with lpmdWoken := true } } }
  else s

/-- Items 2 to 6 of 60 R415, after the host and the sampling; in debug mode nothing executes (60 R500). -/
def State.hartTurn (s : State) : Result :=
  if s.debugMode then .next s
  else if s.locked then
    .next (if s.nmiPending && !s.inNmi then { s.nmiEntry with lockupNmi := true } else s)
  else if s.sleeping && !s.wakes then .next s
  else s.wakeUp.boundary

/-- One step of the machine (60 R415). -/
def State.cycle (s : State) : Result :=
  if !busWindowLegal s.cfg then .fault .busWindow
  else if busOverlap s.cfg then .fault .busOverlap
  else match s.hostTurn with
    | .error r => .refused r
    | .ok s' => s'.sample.hartTurn

/-- The instruction whose bits are `w` stored where the next fetch reads it, with no older copy of those bytes. -/
def State.placeWord (s : State) (nbits w : Nat) : State :=
  { s with
    mem := Memory.writeLE s.mem s.pc 4 (BitVec.ofNat 32 (w % 2 ^ nbits))
    stale := s.stale.filter fun e => e.1 != s.pc.toNat && e.1 != (s.pc + 2).toNat
    icache := if s.usesIcache s.pc || s.usesIcache (s.pc + 2) then
        (s.icache.put (lineOf s.pc) none).put (lineOf (s.pc + 2)) none
      else s.icache }

end Sys2Proof.Machine
end

