-- ==== Sys2Proof/Machine/Step.lean ====
section
/-! DEFINITION. The step function and the placing of one instruction for the next fetch. -/

namespace Sys2Proof.Machine

/-- One step of the machine (60 R415). -/
def step (s : State) : Host.Outcome State Fault Refusal := s.cycle

/-- The state with one instruction stored where `step` fetches next (log 8). -/
def State.withFetchWord (s : State) (nbits w : Nat) : State := s.placeWord nbits w

end Sys2Proof.Machine
end

