-- ==== Sys2Proof/Safety.lean ====
section
/-! DEFINITION. What a well-behaved state is (`State.Inv`), and the frames the statements speak of: what an instruction
leaves as it was. -/

namespace Sys2Proof.Machine

/-- The registers of the PMP entries: an entry that does not exist holds 0, and the reserved bits 6:5 of a configuration
byte are 0 (10 R63, D14). -/
structure Pmp.Legal (p : Pmp) (count : Nat) : Prop where
  absentCfg : ∀ i : Fin 16, count ≤ i.val → p.cfg[i.val] = 0
  absentAddr : ∀ i : Fin 16, count ≤ i.val → p.addr[i.val] = 0
  reserved : ∀ i : Fin 16, p.cfg[i.val].extractLsb' 5 2 = 0

/-- The CLIC holds one record for each id that exists, and the unimplemented low bits of every CLICINTCTL are 1
(60 R442, R468). -/
structure Clic.Legal (x : Clic) (c : Config) : Prop where
  ids : x.sources.map (·.id) = sourceIds c
  tied : ∀ y ∈ x.sources, (0xFF#8 >>> c.ctlBits.toNat) &&& ~~~ y.ctl = 0

/-- What every reachable state satisfies. -/
structure State.Inv (s : State) : Prop where
  /-- memory is in its canonical form -/
  memory : Memory.wf s.mem
  /-- `pc[0]` is always 0 (10 R26) -/
  pcEven : s.pc.getLsbD 0 = false
  /-- MEPC bit 0 is constant 0 (10 R54) -/
  mepcEven : s.csr.mepc.getLsbD 0 = false
  /-- MNMIPC bit 0 is constant 0 (10 R92) -/
  mnmipcEven : s.csr.mnmipc.getLsbD 0 = false
  /-- without user mode the mode and MPP are machine (10 R42, R29) -/
  modes : s.cfg.hasUmode = false → s.priv = .machine ∧ s.csr.status.mpp = .machine
  /-- LPMD never holds 2'b10 or 2'b11 (10 R87) -/
  lpmd : s.csr.ex.lpmd.getLsbD 1 = false
  pmp : s.pmp.Legal s.cfg.pmpEntries.toNat
  clic : s.clic.Legal s.cfg
  /-- TRANS PROT bit 2 is fixed to non-secure (60 R504) -/
  prot : s.had.transProt.getLsbD 2 = false

/-- The machine can execute: not in debug mode, not locked up, awake. -/
def State.running (s : State) : Prop := s.debugMode = false ∧ s.locked = false ∧ s.sleeping = false

/-! ### Frames -/

/-- Everything but the general registers, the pc, MINSTRET and memory is as before. -/
structure KeepsSystem (s t : State) : Prop where
  cfg : t.cfg = s.cfg
  priv : t.priv = s.priv
  csr : t.csr = s.csr
  mcycle : t.mcycle = s.mcycle
  mcpuidNext : t.mcpuidNext = s.mcpuidNext
  pmp : t.pmp = s.pmp
  clint : t.clint = s.clint
  clic : t.clic = s.clic
  icache : t.icache = s.icache
  sleeping : t.sleeping = s.sleeping
  nmiPending : t.nmiPending = s.nmiPending
  lockupNmi : t.lockupNmi = s.lockupNmi
  debugMode : t.debugMode = s.debugMode
  sinceReset : t.sinceReset = s.sinceReset
  had : t.had = s.had
  inputs : t.inputs = s.inputs
  schedule : t.schedule = s.schedule
  draws : t.draws = s.draws

/-- Everything but the control registers, the mode, the pc, MINSTRET and the counter of drawn values is as before; memory
too. -/
structure KeepsMachine (s t : State) : Prop where
  cfg : t.cfg = s.cfg
  regs : ∀ r, t.reg r = s.reg r
  mcycle : t.mcycle = s.mcycle
  mcpuidNext : t.mcpuidNext = s.mcpuidNext
  pmp : t.pmp = s.pmp
  clint : t.clint = s.clint
  icache : t.icache = s.icache
  stale : t.stale = s.stale
  sleeping : t.sleeping = s.sleeping
  debugMode : t.debugMode = s.debugMode
  sinceReset : t.sinceReset = s.sinceReset
  had : t.had = s.had
  inputs : t.inputs = s.inputs
  schedule : t.schedule = s.schedule
  memory : ∀ a, t.byteAt a = s.byteAt a

/-- No byte of memory changes, and no earlier value of a parcel is added or dropped. -/
def KeepsMemory (s t : State) : Prop := (∀ a, t.byteAt a = s.byteAt a) ∧ t.stale = s.stale

/-- No general register changes. -/
def KeepsRegs (s t : State) : Prop := ∀ r, t.reg r = s.reg r

/-- The result of an instruction that computes a register value: `rd` holds it unless it is x0, which reads 0; no other
register changes; the pc moves by the length; the instruction counts as retired; nothing else changes
(10 R21, R27, R66). -/
structure RegResult (s t : State) (rd : Reg) (v length : Word) : Prop where
  result : rd ≠ 0 → t.reg rd = v
  zero : t.reg 0 = 0
  others : ∀ r, r ≠ rd → t.reg r = s.reg r
  pc : t.pc = s.pc + length
  retired : t.minstret = s.minstret + 1
  system : KeepsSystem s t
  memory : KeepsMemory s t

/-- The result of a jump or branch: the pc, the retired count, and nothing else. -/
structure PcResult (s t : State) (target : Word) : Prop where
  pc : t.pc = target
  regs : KeepsRegs s t
  retired : t.minstret = s.minstret + 1
  system : KeepsSystem s t
  memory : KeepsMemory s t

/-- The result of a jump that links: also `rd`, unless it is x0. -/
structure LinkResult (s t : State) (rd : Reg) (link target : Word) : Prop where
  pc : t.pc = target
  result : rd ≠ 0 → t.reg rd = link
  zero : t.reg 0 = 0
  others : ∀ r, r ≠ rd → t.reg r = s.reg r
  retired : t.minstret = s.minstret + 1
  system : KeepsSystem s t
  memory : KeepsMemory s t

/-- The result of a store of `n` bytes of `v` at `addr` to memory: byte `k` of `v` is at `addr + k`, every other byte is as
before; no register and nothing of the system changes. The one or two parcels it lies in are remembered as memory held them
before it, unless it leaves them as they were or that value is remembered already; nothing remembered is dropped
(20 R161, R120, R167). -/
structure StoreResult (s t : State) (addr : Word) (n : Nat) (v length : Word) : Prop where
  stored : ∀ k, k < n → t.byteAt (addr + BitVec.ofNat 32 k) = v.extractLsb' (8 * k) 8
  others : ∀ a, (∀ k, k < n → a ≠ addr + BitVec.ofNat 32 k) → t.byteAt a = s.byteAt a
  pc : t.pc = s.pc + length
  regs : KeepsRegs s t
  retired : t.minstret = s.minstret + 1
  system : KeepsSystem s t
  stale : t.stale =
    if n = 4 then
      rememberParcel s.mem t.mem (parcelOf addr + 2) (rememberParcel s.mem t.mem (parcelOf addr) s.stale)
    else rememberParcel s.mem t.mem (parcelOf addr) s.stale
  remembered : ∀ p, p = parcelOf addr ∨ n = 4 ∧ p = parcelOf addr + 2 →
    Memory.readHalf s.mem p ≠ Memory.readHalf t.mem p → (p.toNat, Memory.readHalf s.mem p) ∈ t.stale

/-- A load of this size at this address reads memory: aligned, allowed by the PMP, outside the TCIP region, answered by
the bus (20 R160). -/
def State.loadsMemory (s : State) (a : Word) (size : AccessSize) : Prop :=
  aligned a size = true ∧ s.pmpAllows s.dataPriv .load a = true ∧ inTcip a = false ∧ s.busError a size .load = false

/-- A store of this size at this address writes memory (20 R161). -/
def State.storesMemory (s : State) (a : Word) (size : AccessSize) : Prop :=
  aligned a size = true ∧ s.pmpAllows s.dataPriv .store a = true ∧ inTcip a = false ∧ s.busError a size .store = false

/-- Codes 3, 8 and 11 are raised by the program on purpose (60 R432). -/
def selfInflictedCode (code : BitVec 12) : Bool := code == 3 || code == 8 || code == 11

/-- The state after an exception that is taken and does not lock up, in the words of 60 R420. -/
structure TrapTaken (s t : State) (code : BitVec 12) (info : Word) (setsExptVld : Bool) : Prop where
  mepc : t.csr.mepc = s.pc
  code : t.csr.cause.code = code
  interrupt : t.csr.cause.interrupt = false
  mpie : t.csr.status.mpie = s.csr.status.mie
  mie : t.csr.status.mie = false
  mpp : t.csr.status.mpp = s.priv
  priv : t.priv = .machine
  mtval : t.csr.mtval = info
  exptVld : t.csr.ex.exptVld = (setsExptVld || s.csr.ex.exptVld)
  pc : t.pc = s.csr.mtvecBase ++ 0#6
  /-- no other field of a control register changes -/
  csr : t.csr = { s.csr with
    mepc := t.csr.mepc
    mtval := t.csr.mtval
    cause := { s.csr.cause with code := t.csr.cause.code, interrupt := t.csr.cause.interrupt }
    status := { s.csr.status with mpie := t.csr.status.mpie, mie := t.csr.status.mie, mpp := t.csr.status.mpp }
    ex := { s.csr.ex with exptVld := t.csr.ex.exptVld } }
  clic : t.clic = s.clic
  nmiPending : t.nmiPending = s.nmiPending
  lockupNmi : t.lockupNmi = s.lockupNmi
  draws : t.draws = s.draws
  retired : t.minstret = if s.cfg.minstretCountsTrapped then s.minstret + 1 else s.minstret
  others : KeepsMachine s t

/-- What raising an exception does: the core locks up, changing MEXSTATUS.LOCKUP and `lockupNmi` only, or the exception is
taken (60 R420, R431 to R433, R436). -/
structure TrapOutcome (s t : State) (code : BitVec 12) (info : Word) : Prop where
  locks : (s.inNmi = true ∨ s.csr.ex.exptVld = true ∧ selfInflictedCode code = false) →
    t = { s with csr := { s.csr with ex := { s.csr.ex with lockup := true } }, lockupNmi := false }
  taken : ¬ (s.inNmi = true ∨ s.csr.ex.exptVld = true ∧ selfInflictedCode code = false) →
    TrapTaken s t code info (!selfInflictedCode code || s.cfg.ecallSetsExptVld)

/-! ### What an instruction answers -/

/-- The instruction answers a next state, the register result. -/
def Computes (i : Instr) (s : State) (rd : Reg) (v length : Word) : Prop :=
  ∃ t, exec i s = .next t ∧ RegResult s t rd v length

/-- The instruction answers a next state in which only the pc and the retired count differ. -/
def GoesTo (i : Instr) (s : State) (target : Word) : Prop := ∃ t, exec i s = .next t ∧ PcResult s t target

/-- The instruction answers a next state, a jump with a link value. -/
def Links (i : Instr) (s : State) (rd : Reg) (link target : Word) : Prop :=
  ∃ t, exec i s = .next t ∧ LinkResult s t rd link target

/-- The instruction answers a next state, the store result. -/
def Stores (i : Instr) (s : State) (addr : Word) (n : Nat) (v length : Word) : Prop :=
  ∃ t, exec i s = .next t ∧ StoreResult s t addr n v length

/-- The instruction answers a next state, what raising this exception does. -/
def Raises (i : Instr) (s : State) (code : BitVec 12) (info : Word) : Prop :=
  ∃ t, exec i s = .next t ∧ TrapOutcome s t code info

/-- The address and size of the access a load makes (42 R280; 45 R371, R372). -/
def loadAccess (s : State) : Instr → Option (Word × AccessSize)
  | .lb _ rs1 imm | .lbu _ rs1 imm => some (s.effectiveAddress rs1 imm, .byte)
  | .lh _ rs1 imm | .lhu _ rs1 imm => some (s.effectiveAddress rs1 imm, .half)
  | .lw _ rs1 imm => some (s.effectiveAddress rs1 imm, .word)
  | .cLw _ rs1 imm => some (s.reg (cr rs1) + clwOffset imm, .word)
  | .cLwsp _ imm => some (s.reg 2 + spOffset imm, .word)
  | _ => none

/-- The address, size and value of the access a store makes, and the instruction's length (42 R280; 45 R379, R380). -/
def storeAccess (s : State) : Instr → Option (Word × AccessSize × Word × Word)
  | .sb rs2 rs1 imm => some (s.effectiveAddress rs1 imm, .byte, s.reg rs2, 4)
  | .sh rs2 rs1 imm => some (s.effectiveAddress rs1 imm, .half, s.reg rs2, 4)
  | .sw rs2 rs1 imm => some (s.effectiveAddress rs1 imm, .word, s.reg rs2, 4)
  | .cSw rs2 rs1 imm => some (s.reg (cr rs1) + clwOffset imm, .word, s.reg (cr rs2), 2)
  | .cSwsp rs2 imm => some (s.reg 2 + spOffset imm, .word, s.reg rs2, 2)
  | _ => none

/-- What a load gives: the destination, the value extended as the instruction says, and the instruction's length
(42 R282 to R286; 45 R371, R372). -/
def loadResult (v : Word) : Instr → Option (Reg × Word × Word)
  | .lb rd _ _ => some (rd, (v.setWidth 8).signExtend 32, 4)
  | .lh rd _ _ => some (rd, (v.setWidth 16).signExtend 32, 4)
  | .lbu rd _ _ => some (rd, (v.setWidth 8).setWidth 32, 4)
  | .lhu rd _ _ => some (rd, (v.setWidth 16).setWidth 32, 4)
  | .lw rd _ _ => some (rd, v, 4)
  | .cLw rd _ _ => some (cr rd, v, 2)
  | .cLwsp rd _ => some (rd, v, 2)
  | _ => none

/-- The halfword at an address, the least significant byte first (20 R120). -/
def State.halfAt (s : State) (a : Word) : Half := s.byteAt (a + 1) ++ s.byteAt a

/-- The word at an address, the least significant byte first (20 R120). -/
def State.wordAt (s : State) (a : Word) : Word :=
  s.byteAt (a + 3) ++ s.byteAt (a + 2) ++ s.byteAt (a + 1) ++ s.byteAt a

/-- The host does nothing at this boundary and the configuration is one the manual describes. -/
def State.quiet (s : State) : Prop :=
  s.schedule = [] ∧ busWindowLegal s.cfg = true ∧ busOverlap s.cfg = false

/-! ### Control registers -/

/-- The number of the control register a CSR instruction names. -/
def csrNumber : Instr → Option (BitVec 12)
  | .csrrw _ n _ => some n
  | .csrrs _ n _ => some n
  | .csrrc _ n _ => some n
  | .csrrwi _ n _ => some n
  | .csrrsi _ n _ => some n
  | .csrrci _ n _ => some n
  | _ => none

/-- Whether a CSR instruction performs a write: the table of 43 R301, with `CSR_WRITE_NOTE_LITERAL`. -/
def csrWriteForm (c : Config) : Instr → Bool
  | .csrrw _ _ rs1 => !(c.csrWriteNoteLiteral && rs1 == 0)
  | .csrrwi _ _ imm => !(c.csrWriteNoteLiteral && imm == 0)
  | .csrrs _ _ rs1 | .csrrc _ _ rs1 => rs1 != 0
  | .csrrsi _ _ imm | .csrrci _ _ imm => imm != 0
  | _ => false

/-- The numbers of the table of 10 R33. -/
def csrNumbers : List (BitVec 12) :=
  [0xF11, 0xF12, 0xF13, 0xF14, 0x300, 0x301, 0x304, 0x305, 0x306, 0x307, 0x340, 0x341, 0x342, 0x343, 0x344, 0x345,
    0x346, 0x348, 0x349, 0x350] ++
  [0x3A0, 0x3A1, 0x3A2, 0x3A3, 0x3B0, 0x3B1, 0x3B2, 0x3B3, 0x3B4, 0x3B5, 0x3B6, 0x3B7, 0x3B8, 0x3B9, 0x3BA, 0x3BB,
    0x3BC, 0x3BD, 0x3BE, 0x3BF] ++
  [0xB00, 0xB02, 0xB80, 0xB82, 0x7C0, 0x7C1, 0x7E0, 0x7E1, 0x7E2, 0x7E3, 0xFC0]

/-- The state after steps 6 to 8 of 43 R300: `rd` holds what the register read; if the instruction performs a write, the
register has been written by its own rule; the writing instruction is not added to a written MINSTRET (43 R309). -/
structure CsrResult (s t after : State) (rd : Reg) (r : Csr) (old : Word) (writes : Bool) : Prop where
  result : rd ≠ 0 → t.reg rd = old
  zero : t.reg 0 = 0
  others : ∀ q, q ≠ rd → t.reg q = s.reg q
  /-- nothing changes but the register files, the pc, the counters and what the read and the write change -/
  rest : t = { s with
    regs := t.regs
    pc := s.pc + 4
    minstret := if writes && r.isInstret then after.minstret else s.minstret + 1
    csr := after.csr
    mcycle := after.mcycle
    mcpuidNext := after.mcpuidNext
    pmp := after.pmp
    draws := after.draws }

/-- The instruction reads the register `number` names and writes `new` of the value read, if that is a value; for every
register but the three of 43 R308, and for the id registers of 43 R300 step 4 if it writes nothing. For MCPUID too if it writes
nothing; a write of it, where the configuration does not have it trap, is ignored (D5, C21; log 19). -/
def CsrExchanges (i : Instr) (s : State) (rd : Reg) (number : BitVec 12) (new : Word → Option Word) : Prop :=
  ∀ r old s1, csr? number = some r → r ≠ .mnxti → r ≠ .mscratchcsw → r ≠ .mscratchcswl → (old, s1) = s.csrRead r →
    (r.writeTraps s.cfg = true → new old = none) →
    ∃ t, exec i s = .next t ∧
      CsrResult s t (match new old with | none => s1 | some v => s1.csrWrite r v) rd r old (new old).isSome

/-- What a write of register `r` leaves as it was: each field changes only by a write of a register it belongs to, MIL,
EXPT_VLD and LOCKUP by none, and nothing but the control registers, the counters, the PMP and the count of draws
changes (43 R300 step 7; 10 R42, R56, R60, R89, R90). -/
structure CsrFrame (s t : State) (r : Csr) : Prop where
  rest : t = { s with csr := t.csr, mcycle := t.mcycle, minstret := t.minstret, pmp := t.pmp, draws := t.draws }
  mieMprv : r ≠ .mstatus → t.csr.status.mie = s.csr.status.mie ∧ t.csr.status.mprv = s.csr.status.mprv
  mpieMpp : r ≠ .mstatus → r ≠ .mcause →
    t.csr.status.mpie = s.csr.status.mpie ∧ t.csr.status.mpp = s.csr.status.mpp ∧ t.draws = s.draws
  mtvec : r ≠ .mtvec → t.csr.mtvecBase = s.csr.mtvecBase ∧ t.csr.mtvecLowOpen = s.csr.mtvecLowOpen
  mcounteren : r ≠ .mcounteren →
    t.csr.counterCy = s.csr.counterCy ∧ t.csr.counterTm = s.csr.counterTm ∧ t.csr.counterIr = s.csr.counterIr
  mtvt : r ≠ .mtvt → t.csr.mtvt = s.csr.mtvt
  mscratch : r ≠ .mscratch → t.csr.mscratch = s.csr.mscratch
  mepc : r ≠ .mepc → t.csr.mepc = s.csr.mepc
  mcause : r ≠ .mcause → t.csr.cause = s.csr.cause
  mtval : r ≠ .mtval → t.csr.mtval = s.csr.mtval
  mil : t.csr.mil = s.csr.mil
  mxstatus : r ≠ .mxstatus → t.csr.theadisaee = s.csr.theadisaee
  mhcr : r ≠ .mhcr → t.csr.icacheEnable = s.csr.icacheEnable
  mexstatus : r ≠ .mexstatus → t.csr.ex = s.csr.ex
  readOnly : t.csr.ex.exptVld = s.csr.ex.exptVld ∧ t.csr.ex.lockup = s.csr.ex.lockup
  mnmicause : r ≠ .mnmicause → t.csr.nmi = s.csr.nmi
  mnmipc : r ≠ .mnmipc → t.csr.mnmipc = s.csr.mnmipc
  mcycle : r ≠ .mcycle → r ≠ .mcycleh → t.mcycle = s.mcycle
  minstret : r ≠ .minstret → r ≠ .minstreth → t.minstret = s.minstret
  pmpcfg : (∀ k, r ≠ .pmpcfg k) → t.pmp.cfg = s.pmp.cfg
  pmpaddr : (∀ i, r ≠ .pmpaddr i) → t.pmp.addr = s.pmp.addr

/-- A value of MPP that names no mode of this core: 2'b01, 2'b10, and 2'b00 without user mode (10 R42). -/
def illegalMpp (c : Config) (b : BitVec 2) : Prop := b = 1#2 ∨ b = 2#2 ∨ b = 0#2 ∧ c.hasUmode = false

/-- What MPP holds after such a value is written, under each value of `MPP_ILLEGAL_WRITE` (10 R42, D33; log 17). -/
def MppAfterIllegal (s : State) (p : Priv) : Prop :=
  match s.cfg.mppIllegalWrite with
  | .keepOld => p = s.csr.status.mpp
  | .forceM => p = .machine
  | .anyLegal => s.cfg.hasUmode = false → p = .machine

/-! ### Compressed halfwords that break a constraint: the table of 30 R202, without the register fields 16 to 31 (R197) -/

/-- The rows the standard calls reserved: C.ADDI4SPN and C.LUI with immediate 0 (C.ADDI16SP is C.LUI's row with rd = 2), C.SRLI,
C.SRAI and C.SLLI with shamt[5] = 1, C.LWSP with rd = 0, C.JR with rs1 = 0. -/
def reservedForm (h : Half) : Prop :=
  h ≠ 0 ∧ h.extractLsb' 5 11 = 0#11 ∧ h.extractLsb' 0 2 = 0#2 ∨
  h.extractLsb' 11 5 = 0b01100#5 ∧ h.extractLsb' 0 7 = 0b0000001#7 ∨
  h.extractLsb' 11 5 = 0b10010#5 ∧ h.extractLsb' 0 2 = 1#2 ∨
  h.extractLsb' 11 5 = 0b00010#5 ∧ h.extractLsb' 0 2 = 2#2 ∨
  h.extractLsb' 13 3 = 0b010#3 ∧ h.extractLsb' 7 5 = 0#5 ∧ h.extractLsb' 0 2 = 2#2 ∨
  h = 0x8002

/-- The rows the standard calls HINT: C.ADDI with exactly one of rd and the immediate 0, C.LI with rd = 0, C.LUI with rd = 0 and
another immediate, C.SRLI and C.SRAI with shamt 0, C.SLLI with rd = 0 or shamt 0, C.MV and C.ADD with rd = 0 and rs2 another
register. -/
def hintForm (h : Half) : Prop :=
  h.extractLsb' 13 3 = 0b000#3 ∧ h.extractLsb' 7 5 = 0#5 ∧ h.extractLsb' 0 2 = 1#2 ∧ h ≠ 1 ∨
  h.extractLsb' 11 5 = 0b00000#5 ∧ h.extractLsb' 0 7 = 0b0000001#7 ∧ h ≠ 1 ∨
  h.extractLsb' 13 3 = 0b010#3 ∧ h.extractLsb' 7 5 = 0#5 ∧ h.extractLsb' 0 2 = 1#2 ∨
  h.extractLsb' 13 3 = 0b011#3 ∧ h.extractLsb' 7 5 = 0#5 ∧ h.extractLsb' 0 2 = 1#2 ∧ h ≠ 0x6001 ∨
  h.extractLsb' 11 5 = 0b10000#5 ∧ h.extractLsb' 0 7 = 0b0000001#7 ∨
  h.extractLsb' 7 9 = 0#9 ∧ h.extractLsb' 0 2 = 2#2 ∨
  h.extractLsb' 11 5 = 0b00000#5 ∧ h.extractLsb' 0 7 = 0b0000010#7 ∨
  h.extractLsb' 6 10 = 0b1000000000#10 ∧ h.extractLsb' 0 2 = 2#2 ∧ h ≠ 0x8002 ∨
  h.extractLsb' 6 10 = 0b1001000000#10 ∧ h.extractLsb' 0 2 = 2#2 ∧ h ≠ 0x9002

/-! ### Protection and fetching -/

/-- Entry `i` of the PMP, with the address register below it (20 R144). -/
def State.pmpEntry (s : State) (i : Fin 16) : PmpEntry where
  cfg := s.pmp.cfg[i.val]
  addr := s.pmp.addr[i.val]
  below := if h : i.val = 0 then 0 else s.pmp.addr[i.val - 1]

/-- A fetch of this halfword reads memory as it is: allowed, not from the TCIP region, answered by the bus, not through the
cache, and no older value of it is remembered (20 R162, R167). -/
def State.fetchesMemory (s : State) (a : Word) : Prop :=
  s.pmpAllows s.priv .fetch a = true ∧ inTcip a = false ∧ s.busError a .half .fetch = false ∧ s.usesIcache a = false ∧
    ∀ e ∈ s.stale, e.1 ≠ a.toNat

/-- The host does nothing, the core runs, and at this boundary neither an NMI nor an interrupt is taken: the step executes
the instruction at the pc (60 R415 item 6). -/
def State.executes (s : State) : Prop :=
  s.quiet ∧ s.running ∧ (s.sample.nmiPending = false ∨ s.sample.inNmi = true) ∧ s.sample.interruptToTake = none

/-- What user mode may not change: the mode, every control register, the protection, the debug unit, the pins. -/
structure KeepsPrivileged (s t : State) : Prop where
  cfg : t.cfg = s.cfg
  priv : t.priv = s.priv
  csr : t.csr = s.csr
  mcycle : t.mcycle = s.mcycle
  mcpuidNext : t.mcpuidNext = s.mcpuidNext
  pmp : t.pmp = s.pmp
  sleeping : t.sleeping = s.sleeping
  nmiPending : t.nmiPending = s.nmiPending
  lockupNmi : t.lockupNmi = s.lockupNmi
  sinceReset : t.sinceReset = s.sinceReset
  had : t.had = s.had
  inputs : t.inputs = s.inputs
  schedule : t.schedule = s.schedule

end Sys2Proof.Machine
end

