-- ==== Sys2Proof/Certificates/Slice0/Obligations.lean ====
section
/-! DEFINITION. The statements put to the provers. A statement names the rule of spec/ it formalises; a statement that rests on
a choice of the model names its log entry. `Computes`, `GoesTo`, `Links`, `Stores` and `Raises` (Safety.lean) each say that
`exec` answers a next state, and which. -/

section
open Sys2Proof Sys2Proof.Machine

/-! ### Encoding -/

/-- 30 R207: decoding the code of a well-formed instruction gives the instruction, every operand at every value its
encoding admits; the multiply family where the core has it (30 R205). -/
def Obligations.DecodeOfEncode : Prop :=
  ∀ (c : Config) (i : Instr), i.wellFormed = true → (i.needsM = true → c.hasM = true) →
    decodeCode c (encode i) = .instr i

/-- 30 R207: a code that decodes to an instruction is that instruction's code, so no two codes decode to one instruction
and no bit of a code is ignored; under every configuration, the HINT forms of 30 R202 included. -/
def Obligations.EncodeOfDecode : Prop :=
  ∀ (c : Config) (code : Code) (i : Instr), decodeCode c code = .instr i → encode i = code

/-- Words written out from spec/30 and the examples of spec/40 to 46, one or more for each family, decode to the
instructions they stand for. -/
def Obligations.SampleWordsDecode : Prop :=
  decodeTableWord 32 0xFFF30293 = some (.addi 5 6 (-1)) ∧
  decodeTableWord 32 0x402081B3 = some (.sub 3 1 2) ∧
  decodeTableWord 32 0x123452B7 = some (.lui 5 0x12345) ∧
  decodeTableWord 32 0x100000EF = some (.jal 1 0x80) ∧
  decodeTableWord 32 0x004280E7 = some (.jalr 1 5 4) ∧
  decodeTableWord 32 0xFE532E23 = some (.sw 5 6 (-4)) ∧
  decodeTableWord 32 0x00331283 = some (.lh 5 6 3) ∧
  decodeTableWord 32 0x0220C1B3 = some (.div 3 1 2) ∧
  decodeTableWord 32 0x340312F3 = some (.csrrw 5 0x340 6) ∧
  decodeTableWord 32 0x345462F3 = some (.csrrsi 5 0x345 8) ∧
  decodeTableWord 32 0x0120000F = some (.fence 1 2) ∧
  decodeTableWord 32 0x0385000B = some (.icacheIpa 10) ∧
  decodeTableWord 16 0x952E = some (.cAdd 10 11) ∧
  decodeTableWord 16 0x713D = some (.cAddi16sp (-2)) ∧
  decodeTableWord 16 0xA801 = some (.cJ 8) ∧
  decodeTableWord 16 0x41C8 = some (.cLw 2 3 1)

/-- 30 R201: the sixteen-bit encodings that name no instruction are illegal, whatever the configuration (the spec's decision D7). -/
def Obligations.UnnamedHalfwordsIllegal : Prop :=
  ∀ (c : Config) (h : Half),
    (h = 0#16 ∨
      h.extractLsb' 0 2 = 0#2 ∧
        (h.extractLsb' 13 3 = 1#3 ∨ h.extractLsb' 13 3 = 3#3 ∨ h.extractLsb' 13 3 = 4#3 ∨ h.extractLsb' 13 3 = 5#3 ∨
          h.extractLsb' 13 3 = 7#3) ∨
      h.extractLsb' 0 2 = 1#2 ∧ h.extractLsb' 13 3 = 4#3 ∧ h.extractLsb' 10 2 = 3#2 ∧ h.getLsbD 12 = true ∨
      h.extractLsb' 0 2 = 2#2 ∧
        (h.extractLsb' 13 3 = 1#3 ∨ h.extractLsb' 13 3 = 3#3 ∨ h.extractLsb' 13 3 = 5#3 ∨ h.extractLsb' 13 3 = 7#3)) →
    decodeCode c (.c16 h) = .illegal

/-- 30 R193, R197: a field that an instruction uses as a register number and that holds 16 to 31 makes the code illegal:
the 32-bit formats one by one, and the compressed formats with a 5-bit field (the spec's decision D6). -/
def Obligations.UpperRegisterFieldsIllegal : Prop :=
  ∀ (c : Config),
    (∀ w : Word,
      ((opcodeField w = 0x33#7 ∧
          ((rdField w).getLsbD 4 || (rs1Field w).getLsbD 4 || (rs2Field w).getLsbD 4) = true) ∨
        ((opcodeField w = 0x13#7 ∨ opcodeField w = 0x03#7 ∨ opcodeField w = 0x67#7) ∧
          ((rdField w).getLsbD 4 || (rs1Field w).getLsbD 4) = true) ∨
        ((opcodeField w = 0x23#7 ∨ opcodeField w = 0x63#7) ∧
          ((rs1Field w).getLsbD 4 || (rs2Field w).getLsbD 4) = true) ∨
        ((opcodeField w = 0x37#7 ∨ opcodeField w = 0x17#7 ∨ opcodeField w = 0x6F#7) ∧ (rdField w).getLsbD 4 = true) ∨
        (opcodeField w = 0x73#7 ∧ (funct3Field w = 1#3 ∨ funct3Field w = 2#3 ∨ funct3Field w = 3#3) ∧
          ((rdField w).getLsbD 4 || (rs1Field w).getLsbD 4) = true) ∨
        (opcodeField w = 0x73#7 ∧ (funct3Field w = 5#3 ∨ funct3Field w = 6#3 ∨ funct3Field w = 7#3) ∧
          (rdField w).getLsbD 4 = true) ∨
        (opcodeField w = 0x0B#7 ∧ (rs1Field w).getLsbD 4 = true)) →
      decodeCode c (.c32 w) = .illegal) ∧
    (∀ h : Half,
      ((h.extractLsb' 0 2 = 1#2 ∧ (h.extractLsb' 13 3 = 0#3 ∨ h.extractLsb' 13 3 = 2#3 ∨ h.extractLsb' 13 3 = 3#3) ∧
          h.getLsbD 11 = true) ∨
        (h.extractLsb' 0 2 = 2#2 ∧ (h.extractLsb' 13 3 = 0#3 ∨ h.extractLsb' 13 3 = 2#3) ∧ h.getLsbD 11 = true) ∨
        (h.extractLsb' 0 2 = 2#2 ∧ h.extractLsb' 13 3 = 4#3 ∧ (h.getLsbD 11 || h.getLsbD 6) = true) ∨
        (h.extractLsb' 0 2 = 2#2 ∧ h.extractLsb' 13 3 = 6#3 ∧ h.getLsbD 6 = true)) →
      decodeCode c (.c16 h) = .illegal)

/-- 30 R205: without the multiplier the eight words of each shape with opcode 0110011 and funct7 0000001 are illegal, and
each of the eight instructions, reached in any way, raises IllegalInstruction with its word in MTVAL (the spec's decision D9). -/
def Obligations.MultiplierAbsent : Prop :=
  (∀ (c : Config) (w : Word), c.hasM = false → opcodeField w = 0x33#7 → funct7Field w = 1#7 →
    decodeCode c (.c32 w) = .illegal) ∧
  (∀ (s : State) (i : Instr), s.cfg.hasM = false → i.needsM = true → Raises i s 2 (encode i).toWord)

/-- 30 R206: of the words with opcode 0001111, only the FENCE pattern and FENCE.I, and of the words with opcode 1110011 and
funct3 000 or 100, only the four fixed ones are instructions (the spec's decision D44). -/
def Obligations.FenceAndFixedWordsExact : Prop :=
  ∀ (c : Config) (w : Word),
    (opcodeField w = 0x0F#7 →
      (decodeCode c (.c32 w) ≠ .illegal ↔ w = 0x0000100F#32 ∨ w &&& 0xF00FFFFF#32 = 0x0000000F#32)) ∧
    (opcodeField w = 0x73#7 → funct3Field w = 0#3 ∨ funct3Field w = 4#3 →
      (decodeCode c (.c32 w) ≠ .illegal ↔
        w = 0x00000073#32 ∨ w = 0x00100073#32 ∨ w = 0x30200073#32 ∨ w = 0x10500073#32))

/-- 30 R202 under each value of `RVC_CONSTRAINT_VIOLATION` (D8; the reference configuration has `standard`: log 5). A
reserved form is refused or illegal. A HINT form is refused or illegal, and under `standard` executes as its own row's
instruction. Of every other halfword the answer is the same under each value. Whatever executes although it breaks its row's
constraint changes no register and nothing else but the pc, by 2, and the retired count. -/
def Obligations.HintFormsOnlyAdvance : Prop :=
  (∀ h : Half, reservedForm h →
    decode16 .refuse h = .constraint ∧ decode16 .illegal h = .illegal ∧ decode16 .standard h = .illegal) ∧
  (∀ h : Half, hintForm h → decode16 .refuse h = .constraint ∧ decode16 .illegal h = .illegal ∧
    ∃ i, decode16 .standard h = .instr i ∧ i.wellFormed = false ∧ encode i = .c16 h) ∧
  (∀ (h : Half) (v w : RvcViolation), ¬ reservedForm h → ¬ hintForm h → decode16 v h = decode16 w h) ∧
  ∀ (h : Half) (i : Instr) (s : State), decode16 .standard h = .instr i → i.wellFormed = false →
    GoesTo i s (s.pc + 2)

/-! ### Integer computational instructions (40 R220 to R244): the value, rd = x0, the pc, the frame -/

/-- 40 R220, R221, R225, R228, R229, R243. -/
def Obligations.AddSubLogicResults : Prop :=
  ∀ (s : State) (rd rs1 rs2 : Reg),
    Computes (.add rd rs1 rs2) s rd (BitVec.ofNat 32 ((s.reg rs1).toNat + (s.reg rs2).toNat)) 4 ∧
    Computes (.sub rd rs1 rs2) s rd (BitVec.ofInt 32 (((s.reg rs1).toNat : Int) - (s.reg rs2).toNat)) 4 ∧
    Computes (.xor rd rs1 rs2) s rd (s.reg rs1 ^^^ s.reg rs2) 4 ∧
    Computes (.or rd rs1 rs2) s rd (s.reg rs1 ||| s.reg rs2) 4 ∧
    Computes (.and rd rs1 rs2) s rd (s.reg rs1 &&& s.reg rs2) 4

/-- 40 R222, R226, R227: only the low five bits of the second source count. -/
def Obligations.ShiftResults : Prop :=
  ∀ (s : State) (rd rs1 rs2 : Reg),
    Computes (.sll rd rs1 rs2) s rd (BitVec.ofNat 32 ((s.reg rs1).toNat * 2 ^ ((s.reg rs2).toNat % 32))) 4 ∧
    Computes (.srl rd rs1 rs2) s rd (BitVec.ofNat 32 ((s.reg rs1).toNat / 2 ^ ((s.reg rs2).toNat % 32))) 4 ∧
    Computes (.sra rd rs1 rs2) s rd (BitVec.ofInt 32 ((s.reg rs1).toInt / 2 ^ ((s.reg rs2).toNat % 32))) 4

/-- 40 R223, R224, R231, R232: signed and unsigned comparison, SLTIU with the parameter `SLTIU_ZERO_EXTENDS` (D1) at
both its values. -/
def Obligations.SetLessThanResults : Prop :=
  ∀ (s : State) (rd rs1 rs2 : Reg) (imm : BitVec 12),
    Computes (.slt rd rs1 rs2) s rd (if (s.reg rs1).toInt < (s.reg rs2).toInt then 1 else 0) 4 ∧
    Computes (.sltu rd rs1 rs2) s rd (if (s.reg rs1).toNat < (s.reg rs2).toNat then 1 else 0) 4 ∧
    Computes (.slti rd rs1 imm) s rd (if (s.reg rs1).toInt < imm.toInt then 1 else 0) 4 ∧
    (s.cfg.sltiuZeroExtends = false →
      Computes (.sltiu rd rs1 imm) s rd
        (if (s.reg rs1).toNat < (BitVec.ofInt 32 imm.toInt).toNat then 1 else 0) 4) ∧
    (s.cfg.sltiuZeroExtends = true →
      Computes (.sltiu rd rs1 imm) s rd (if (s.reg rs1).toNat < imm.toNat then 1 else 0) 4)

/-- 40 R230, R233 to R235; the immediate is sign-extended (30 R184). -/
def Obligations.ImmediateResults : Prop :=
  ∀ (s : State) (rd rs1 : Reg) (imm : BitVec 12),
    Computes (.addi rd rs1 imm) s rd (BitVec.ofInt 32 ((s.reg rs1).toInt + imm.toInt)) 4 ∧
    Computes (.xori rd rs1 imm) s rd (s.reg rs1 ^^^ BitVec.ofInt 32 imm.toInt) 4 ∧
    Computes (.ori rd rs1 imm) s rd (s.reg rs1 ||| BitVec.ofInt 32 imm.toInt) 4 ∧
    Computes (.andi rd rs1 imm) s rd (s.reg rs1 &&& BitVec.ofInt 32 imm.toInt) 4

/-- 40 R236 to R238. -/
def Obligations.ShiftImmediateResults : Prop :=
  ∀ (s : State) (rd rs1 : Reg) (k : BitVec 5),
    Computes (.slli rd rs1 k) s rd (BitVec.ofNat 32 ((s.reg rs1).toNat * 2 ^ k.toNat)) 4 ∧
    Computes (.srli rd rs1 k) s rd (BitVec.ofNat 32 ((s.reg rs1).toNat / 2 ^ k.toNat)) 4 ∧
    Computes (.srai rd rs1 k) s rd (BitVec.ofInt 32 ((s.reg rs1).toInt / 2 ^ k.toNat)) 4

/-- 40 R240, R241. -/
def Obligations.UpperImmediateResults : Prop :=
  ∀ (s : State) (rd : Reg) (imm : BitVec 20),
    Computes (.lui rd imm) s rd (BitVec.ofNat 32 (imm.toNat * 4096)) 4 ∧
    Computes (.auipc rd imm) s rd (BitVec.ofNat 32 (s.pc.toNat + imm.toNat * 4096)) 4

/-! ### Multiply and divide (44 R330 to R339) -/

/-- 44 R332 to R335: the halves of the exact 64-bit product, each operand extended by its own signedness. -/
def Obligations.MultiplyResults : Prop :=
  ∀ (s : State) (rd rs1 rs2 : Reg), s.cfg.hasM = true →
    Computes (.mul rd rs1 rs2) s rd (((s.reg rs1).signExtend 64 * (s.reg rs2).signExtend 64).extractLsb' 0 32) 4 ∧
    Computes (.mulh rd rs1 rs2) s rd (((s.reg rs1).signExtend 64 * (s.reg rs2).signExtend 64).extractLsb' 32 32) 4 ∧
    Computes (.mulhsu rd rs1 rs2) s rd (((s.reg rs1).signExtend 64 * (s.reg rs2).setWidth 64).extractLsb' 32 32) 4 ∧
    Computes (.mulhu rd rs1 rs2) s rd (((s.reg rs1).setWidth 64 * (s.reg rs2).setWidth 64).extractLsb' 32 32) 4

/-- 44 R336 to R339, with the results for a zero divisor and for the one overflow; rounding toward zero: log 29. -/
def Obligations.DivideResults : Prop :=
  ∀ (s : State) (rd rs1 rs2 : Reg), s.cfg.hasM = true →
    Computes (.div rd rs1 rs2) s rd
      (if s.reg rs2 = 0 then 0xFFFFFFFF
       else if s.reg rs1 = 0x80000000 ∧ s.reg rs2 = 0xFFFFFFFF then 0x80000000
       else (s.reg rs1).sdiv (s.reg rs2)) 4 ∧
    Computes (.divu rd rs1 rs2) s rd
      (if s.reg rs2 = 0 then 0xFFFFFFFF else s.reg rs1 / s.reg rs2) 4 ∧
    Computes (.rem rd rs1 rs2) s rd
      (if s.reg rs2 = 0 then s.reg rs1
       else if s.reg rs1 = 0x80000000 ∧ s.reg rs2 = 0xFFFFFFFF then 0
       else (s.reg rs1).srem (s.reg rs2)) 4 ∧
    Computes (.remu rd rs1 rs2) s rd
      (if s.reg rs2 = 0 then s.reg rs1 else s.reg rs1 % s.reg rs2) 4

/-- 44 section 3: `dividend = divisor * quotient + remainder` for every divisor but 0, signed and unsigned, and the
remainder is smaller than the divisor; the signed remainder is 0 or has the sign of the dividend
(log 29). -/
def Obligations.DivisionIdentity : Prop :=
  ∀ (s t u : State) (i j : Instr) (rd rs1 rs2 : Reg) (a b q r : Word), s.cfg.hasM = true → rd ≠ 0 →
    a = s.reg rs1 → b = s.reg rs2 → b ≠ 0 →
    (i = .div rd rs1 rs2 ∧ j = .rem rd rs1 rs2 ∨ i = .divu rd rs1 rs2 ∧ j = .remu rd rs1 rs2) →
    exec i s = .next t → exec j s = .next u → q = t.reg rd → r = u.reg rd →
    a = b * q + r ∧
      (i = .divu rd rs1 rs2 → r.toNat < b.toNat) ∧
      (i = .div rd rs1 rs2 → r.toInt.natAbs < b.toInt.natAbs ∧
        (0 ≤ a.toInt → 0 ≤ r.toInt) ∧ (a.toInt ≤ 0 → r.toInt ≤ 0))

/-! ### Branches and jumps (41 R260 to R272) -/

/-- 41 R260 to R265, R270: a branch is taken or not, by the signed or unsigned comparison each has. 41 R266, R267, R269: the link
is `pc + 4`; JALR's target is computed from the register's old value and has bit 0 clear. -/
def Obligations.BranchAndJumpResults : Prop :=
  ∀ (s : State) (rd rs1 rs2 : Reg),
    (∀ (imm : BitVec 12) (target next : Word), target = s.pc + BitVec.ofInt 32 (2 * imm.toInt) → next = s.pc + 4 →
      GoesTo (.beq rs1 rs2 imm) s (if s.reg rs1 = s.reg rs2 then target else next) ∧
      GoesTo (.bne rs1 rs2 imm) s (if s.reg rs1 = s.reg rs2 then next else target) ∧
      GoesTo (.blt rs1 rs2 imm) s (if (s.reg rs1).toInt < (s.reg rs2).toInt then target else next) ∧
      GoesTo (.bge rs1 rs2 imm) s (if (s.reg rs2).toInt ≤ (s.reg rs1).toInt then target else next) ∧
      GoesTo (.bltu rs1 rs2 imm) s (if (s.reg rs1).toNat < (s.reg rs2).toNat then target else next) ∧
      GoesTo (.bgeu rs1 rs2 imm) s (if (s.reg rs2).toNat ≤ (s.reg rs1).toNat then target else next)) ∧
    (∀ imm : BitVec 20, Links (.jal rd imm) s rd (s.pc + 4) (s.pc + BitVec.ofInt 32 (2 * imm.toInt))) ∧
    (∀ imm : BitVec 12, Links (.jalr rd rs1 imm) s rd (s.pc + 4)
      (BitVec.ofNat 32 (2 * ((s.reg rs1 + BitVec.ofInt 32 imm.toInt).toNat / 2))))

/-! ### Loads and stores (42 R280 to R290; 20 R120 to R125, R160 to R163) -/

/-- 42 R280, R282 to R286: a load that reads memory gives `rd` the bytes at the address, little-endian, extended; memory is
unchanged. -/
def Obligations.LoadResults : Prop :=
  ∀ (s : State) (rd rs1 : Reg) (imm : BitVec 12) (a : Word), a = s.reg rs1 + BitVec.ofInt 32 imm.toInt →
    (s.loadsMemory a .byte → Computes (.lb rd rs1 imm) s rd ((s.byteAt a).signExtend 32) 4) ∧
    (s.loadsMemory a .half → Computes (.lh rd rs1 imm) s rd ((s.halfAt a).signExtend 32) 4) ∧
    (s.loadsMemory a .word → Computes (.lw rd rs1 imm) s rd (s.wordAt a) 4) ∧
    (s.loadsMemory a .byte → Computes (.lbu rd rs1 imm) s rd ((s.byteAt a).setWidth 32) 4) ∧
    (s.loadsMemory a .half → Computes (.lhu rd rs1 imm) s rd ((s.halfAt a).setWidth 32) 4)

/-- 42 R287 to R289, 20 R167: a store that writes memory changes exactly the bytes of its own size at its address; the values
its one or two parcels had before are remembered, in the one way `StoreResult` spells out (log 14). -/
def Obligations.StoreResults : Prop :=
  ∀ (s : State) (rs2 rs1 : Reg) (imm : BitVec 12),
    (s.storesMemory (s.effectiveAddress rs1 imm) .byte →
      Stores (.sb rs2 rs1 imm) s (s.effectiveAddress rs1 imm) 1 (s.reg rs2) 4) ∧
    (s.storesMemory (s.effectiveAddress rs1 imm) .half →
      Stores (.sh rs2 rs1 imm) s (s.effectiveAddress rs1 imm) 2 (s.reg rs2) 4) ∧
    (s.storesMemory (s.effectiveAddress rs1 imm) .word →
      Stores (.sw rs2 rs1 imm) s (s.effectiveAddress rs1 imm) 4 (s.reg rs2) 4)

/-- 42 R281, 20 R123, R124, R136, R163: every load and store whose address is not aligned to its size raises LoadMisaligned
or StoreMisaligned, and else, where the PMP denies it, the address is a device register and the privilege is user, or the bus
answers with an error, LoadAccessFault or StoreAccessFault; MTVAL is the address. -/
def Obligations.AccessFaults : Prop :=
  ∀ (s : State) (i : Instr) (a : Word) (size : AccessSize),
    (loadAccess s i = some (a, size) →
      (a.toNat % size.bytes ≠ 0 → Raises i s 4 a) ∧
      (a.toNat % size.bytes = 0 →
        (s.pmpAllows s.dataPriv .load a = false ∨
          inTcip a = true ∧ s.dataPriv = .user ∨ inTcip a = false ∧ s.busError a size .load = true) →
        Raises i s 5 a)) ∧
    (∀ v n : Word, storeAccess s i = some (a, size, v, n) →
      (a.toNat % size.bytes ≠ 0 → Raises i s 6 a) ∧
      (a.toNat % size.bytes = 0 →
        (s.pmpAllows s.dataPriv .store a = false ∨
          inTcip a = true ∧ s.dataPriv = .user ∨ inTcip a = false ∧ s.busError a size .store = true) →
        Raises i s 7 a))

/-- 20 R120, R160, R161, R164: after a word is stored, loads at the same address give it, its low half, its low byte. -/
def Obligations.LoadAfterStore : Prop :=
  ∀ (s t : State) (rd rs1 rs2 : Reg) (imm : BitVec 12), s.storesMemory (s.effectiveAddress rs1 imm) .word →
    exec (.sw rs2 rs1 imm) s = .next t →
    (s.loadsMemory (s.effectiveAddress rs1 imm) .word → Computes (.lw rd rs1 imm) t rd (s.reg rs2) 4) ∧
    (s.loadsMemory (s.effectiveAddress rs1 imm) .half →
      Computes (.lhu rd rs1 imm) t rd (((s.reg rs2).setWidth 16).setWidth 32) 4) ∧
    (s.loadsMemory (s.effectiveAddress rs1 imm) .byte →
      Computes (.lb rd rs1 imm) t rd (((s.reg rs2).setWidth 8).signExtend 32) 4)

/-- The canonical form of memory (log 3): two memories in it that read alike at every address are equal, so equality of
states compares what memory holds. -/
def Obligations.MemoryCanonical : Prop :=
  ∀ m n : List Host.Cell, Memory.wf m → Memory.wf n → (∀ a, Memory.read m a = Memory.read n a) → m = n

/-- 20 R163, 60 R442, R456 to R468: what the device registers read: the words, CLICINFO and MINTTHRESH under the reference
layout (log 6); the registers of a source as a word, by bytes and by halfwords; the registers of an id without a source
read 0 (D42). -/
def Obligations.DeviceWordsRead : Prop :=
  ∀ (s : State),
    s.tcipRead 0xE0000000 .word = some (if s.clint.msip then 1 else 0) ∧
    s.tcipRead 0xE0004000 .word = some (s.clint.mtimecmp.extractLsb' 0 32) ∧
    s.tcipRead 0xE0004004 .word = some (s.clint.mtimecmp.extractLsb' 32 32) ∧
    s.tcipRead 0xE000BFF8 .word = some (s.inputs.sysCnt.extractLsb' 0 32) ∧
    s.tcipRead 0xE000BFFC .word = some (s.inputs.sysCnt.extractLsb' 32 32) ∧
    s.tcipRead 0xE0800000 .word = some (BitVec.ofNat 32 (2 * s.clic.nlbits.toNat + 1)) ∧
    (s.cfg.layout = .reference →
      s.tcipRead 0xE0800004 .word = some (0#7 ++ BitVec.ofNat 4 s.cfg.ctlBits.toNat ++ s.cfg.clicinfoVersion ++
        BitVec.ofNat 13 (16 + s.cfg.numExt)) ∧
      s.tcipRead 0xE0800008 .word = some (s.clic.mth ++ 0#24)) ∧
    (∀ (id : Nat) (w : Word), id < 256 →
      ((∃ x ∈ s.clic.sources, s.clic.sources.Pairwise (fun y z => y.id ≠ z.id) ∧ x.id = id ∧
          w = x.ctl ++ 3#2 ++ 0#3 ++ x.trig ++ BitVec.ofBool x.shv ++ 0#7 ++ BitVec.ofBool x.ie ++ 0#7 ++
            BitVec.ofBool (s.pending x)) ∨
        (∀ x ∈ s.clic.sources, x.id ≠ id) ∧ w = 0) →
      s.tcipRead (0xE0801000 + 4 * BitVec.ofNat 32 id) .word = some w ∧
      (∀ k, k < 4 → s.tcipRead (0xE0801000 + 4 * BitVec.ofNat 32 id + BitVec.ofNat 32 k) .byte =
        some ((w.extractLsb' (8 * k) 8).setWidth 32)) ∧
      ∀ k, k < 2 → s.tcipRead (0xE0801000 + 4 * BitVec.ofNat 32 id + BitVec.ofNat 32 (2 * k)) .half =
        some ((w.extractLsb' (16 * k) 16).setWidth 32))

/-- 20 R163, 60 R456 to R468: what a store leaves in the device registers, and that it leaves everything else as it was:
words, MINTTHRESH under the reference layout (log 6); word, byte and halfword stores to the registers of a source, an id
without a source ignoring them (D42); read-only registers ignore a store (D17). An edge of the same step wins over a clear
(log 15). -/
def Obligations.DeviceWordsWritten : Prop :=
  ∀ (s : State) (v : Word),
    s.tcipWrite 0xE0000000 .word v = some { s with clint := { s.clint with msip := v.getLsbD 0 } } ∧
    (∃ t, s.tcipWrite 0xE0004000 .word v = some t ∧
      t = { s with clint := { s.clint with mtimecmp := t.clint.mtimecmp } } ∧
      t.tcipRead 0xE0004000 .word = some v ∧ t.tcipRead 0xE0004004 .word = s.tcipRead 0xE0004004 .word) ∧
    (∃ t, s.tcipWrite 0xE0004004 .word v = some t ∧
      t = { s with clint := { s.clint with mtimecmp := t.clint.mtimecmp } } ∧
      t.tcipRead 0xE0004004 .word = some v ∧ t.tcipRead 0xE0004000 .word = s.tcipRead 0xE0004000 .word) ∧
    s.tcipWrite 0xE000BFF8 .word v = some s ∧ s.tcipWrite 0xE000BFFC .word v = some s ∧
    s.tcipWrite 0xE0800004 .word v = some s ∧
    (∃ t, s.tcipWrite 0xE0800000 .word v = some t ∧ t = { s with clic := { s.clic with nlbits := v.extractLsb' 1 4 } } ∧
      t.tcipRead 0xE0800000 .word = some ((v &&& 0x1E) ||| 1)) ∧
    (s.cfg.layout = .reference → ∃ t, s.tcipWrite 0xE0800008 .word v = some t ∧
      t = { s with clic := { s.clic with mth := v.extractLsb' 24 8 } } ∧
      t.tcipRead 0xE0800008 .word = some (v &&& 0xFF000000)) ∧
    (∀ (id : Nat) (base tied : Word) (put : (ClicSource → ClicSource) → State), id < 256 →
      base = 0xE0801000 + 4 * BitVec.ofNat 32 id → tied = (0xFF#8 >>> s.cfg.ctlBits.toNat).setWidth 32 →
      (∀ f, put f =
        { s with clic := { s.clic with sources := s.clic.sources.map fun x => if x.id = id then f x else x } }) →
      s.tcipWrite base .word v = some (put fun x => { x with
        ip := if x.trig.getLsbD 0 then v.getLsbD 0 || x.edge else x.ip
        ie := v.getLsbD 8
        shv := v.getLsbD 16
        trig := v.extractLsb' 17 2
        ctl := v.extractLsb' 24 8 ||| tied.setWidth 8 }) ∧
      s.tcipWrite base .half v = some (put fun x => { x with
        ip := if x.trig.getLsbD 0 then v.getLsbD 0 || x.edge else x.ip
        ie := v.getLsbD 8 }) ∧
      s.tcipWrite (base + 2) .half v = some (put fun x => { x with
        shv := v.getLsbD 0
        trig := v.extractLsb' 1 2
        ctl := v.extractLsb' 8 8 ||| tied.setWidth 8 }) ∧
      s.tcipWrite base .byte v =
        some (put fun x => { x with ip := if x.trig.getLsbD 0 then v.getLsbD 0 || x.edge else x.ip }) ∧
      s.tcipWrite (base + 1) .byte v = some (put fun x => { x with ie := v.getLsbD 0 }) ∧
      s.tcipWrite (base + 2) .byte v =
        some (put fun x => { x with shv := v.getLsbD 0, trig := v.extractLsb' 1 2 }) ∧
      s.tcipWrite (base + 3) .byte v =
        some (put fun x => { x with ctl := v.extractLsb' 0 8 ||| tied.setWidth 8 }) ∧
      ((∀ x ∈ s.clic.sources, x.id ≠ id) → ∀ f, put f = s))

/-- 20 R163: every load and every store of an aligned device address with machine privilege that the PMP allows reads or
writes the register its address and size name, the loaded value extended as the instruction says, and is refused
(`tcipAccess`) where they name none: a reserved offset or an unsupported width (U10, U23). -/
def Obligations.DeviceAccesses : Prop :=
  ∀ (s : State) (i : Instr) (a : Word) (size : AccessSize), inTcip a = true → s.dataPriv = .machine →
    a.toNat % size.bytes = 0 →
    (loadAccess s i = some (a, size) → s.pmpAllows .machine .load a = true →
      (∀ v w n rd, s.tcipRead a size = some v → loadResult v i = some (rd, w, n) → Computes i s rd w n) ∧
      (s.tcipRead a size = none → exec i s = .refused .tcipAccess)) ∧
    (∀ v n : Word, storeAccess s i = some (a, size, v, n) → s.pmpAllows .machine .store a = true →
      (∀ t, s.tcipWrite a size v = some t →
        exec i s = .next { t with pc := s.pc + n, minstret := s.minstret + 1 }) ∧
      (s.tcipWrite a size v = none → exec i s = .refused .tcipAccess))

/-! ### Compressed instructions (45 R350 to R382) -/

/-- 45 R356 to R361, R369, R370, R373 to R378, R381, R382: the values, two bytes long, compressed register fields naming x8
to x15. -/
def Obligations.CompressedResults : Prop :=
  ∀ (s : State),
    (∀ rd rs2, Computes (.cAdd rd rs2) s rd (s.reg rd + s.reg rs2) 2 ∧ Computes (.cMv rd rs2) s rd (s.reg rs2) 2) ∧
    (∀ rd (imm : BitVec 6), Computes (.cAddi rd imm) s rd (s.reg rd + BitVec.ofInt 32 imm.toInt) 2 ∧
      Computes (.cLi rd imm) s rd (BitVec.ofInt 32 imm.toInt) 2 ∧
      Computes (.cLui rd imm) s rd (BitVec.ofInt 32 (4096 * imm.toInt)) 2) ∧
    (∀ (rd : CReg) (imm : BitVec 8),
      Computes (.cAddi4spn rd imm) s (cr rd) (s.reg 2 + BitVec.ofNat 32 (4 * imm.toNat)) 2) ∧
    (∀ imm : BitVec 6, Computes (.cAddi16sp imm) s 2 (s.reg 2 + BitVec.ofInt 32 (16 * imm.toInt)) 2) ∧
    (∀ rd rs2 : CReg,
      Computes (.cSub rd rs2) s (cr rd) (s.reg (cr rd) - s.reg (cr rs2)) 2 ∧
      Computes (.cXor rd rs2) s (cr rd) (s.reg (cr rd) ^^^ s.reg (cr rs2)) 2 ∧
      Computes (.cOr rd rs2) s (cr rd) (s.reg (cr rd) ||| s.reg (cr rs2)) 2 ∧
      Computes (.cAnd rd rs2) s (cr rd) (s.reg (cr rd) &&& s.reg (cr rs2)) 2) ∧
    (∀ (rd : CReg) (imm : BitVec 6),
      Computes (.cAndi rd imm) s (cr rd) (s.reg (cr rd) &&& BitVec.ofInt 32 imm.toInt) 2) ∧
    (∀ (rd : Reg) (k : BitVec 5), Computes (.cSlli rd k) s rd (BitVec.ofNat 32 ((s.reg rd).toNat * 2 ^ k.toNat)) 2) ∧
    (∀ (rd : CReg) (k : BitVec 5),
      Computes (.cSrli rd k) s (cr rd) (BitVec.ofNat 32 ((s.reg (cr rd)).toNat / 2 ^ k.toNat)) 2 ∧
      Computes (.cSrai rd k) s (cr rd) (BitVec.ofInt 32 ((s.reg (cr rd)).toInt / 2 ^ k.toNat)) 2) ∧
    GoesTo .cNop s (s.pc + 2)

/-- 45 R350, R351: the register instructions that have a base equivalent do what it does, but for the two bytes less that the
pc moves. -/
def Obligations.CompressedMatchBase : Prop :=
  ∀ (s : State) (i j : Instr),
    ((∃ rd rs2, i = .cAdd rd rs2 ∧ j = .add rd rd rs2) ∨ (∃ rd rs2, i = .cMv rd rs2 ∧ j = .add rd 0 rs2) ∨
      (∃ rd imm, i = .cAddi rd imm ∧ j = .addi rd rd (imm.signExtend 12)) ∨
      (∃ rd imm, i = .cLi rd imm ∧ j = .addi rd 0 (imm.signExtend 12)) ∨
      (∃ rd imm, i = .cLui rd imm ∧ j = .lui rd (imm.signExtend 20)) ∨
      (∃ rd imm, i = .cAddi4spn rd imm ∧ j = .addi (cr rd) 2 ((imm ++ 0#2).setWidth 12)) ∨
      (∃ imm, i = .cAddi16sp imm ∧ j = .addi 2 2 ((imm ++ 0#4).signExtend 12)) ∨
      (∃ rd rs2, i = .cSub rd rs2 ∧ j = .sub (cr rd) (cr rd) (cr rs2)) ∨
      (∃ rd rs2, i = .cXor rd rs2 ∧ j = .xor (cr rd) (cr rd) (cr rs2)) ∨
      (∃ rd rs2, i = .cOr rd rs2 ∧ j = .or (cr rd) (cr rd) (cr rs2)) ∨
      (∃ rd rs2, i = .cAnd rd rs2 ∧ j = .and (cr rd) (cr rd) (cr rs2)) ∨
      (∃ rd imm, i = .cAndi rd imm ∧ j = .andi (cr rd) (cr rd) (imm.signExtend 12)) ∨
      (∃ rd k, i = .cSlli rd k ∧ j = .slli rd rd k) ∨ (∃ rd k, i = .cSrli rd k ∧ j = .srli (cr rd) (cr rd) k) ∨
      (∃ rd k, i = .cSrai rd k ∧ j = .srai (cr rd) (cr rd) k)) →
    ∃ t, exec j s = .next t ∧ exec i s = .next { t with pc := s.pc + 2 }

/-- 45 R362, R363, R365 to R368: compressed branches and jumps; the link value is `pc + 2`. -/
def Obligations.CompressedJumpResults : Prop :=
  ∀ (s : State),
    (∀ (rs1 : CReg) (imm : BitVec 8),
      GoesTo (.cBeqz rs1 imm) s (if s.reg (cr rs1) = 0 then s.pc + BitVec.ofInt 32 (2 * imm.toInt) else s.pc + 2) ∧
      GoesTo (.cBnez rs1 imm) s (if s.reg (cr rs1) = 0 then s.pc + 2 else s.pc + BitVec.ofInt 32 (2 * imm.toInt))) ∧
    (∀ imm : BitVec 11, GoesTo (.cJ imm) s (s.pc + BitVec.ofInt 32 (2 * imm.toInt)) ∧
      Links (.cJal imm) s 1 (s.pc + 2) (s.pc + BitVec.ofInt 32 (2 * imm.toInt))) ∧
    (∀ rs1 : Reg, GoesTo (.cJr rs1) s (BitVec.ofNat 32 (2 * ((s.reg rs1).toNat / 2))) ∧
      Links (.cJalr rs1) s 1 (s.pc + 2) (BitVec.ofNat 32 (2 * ((s.reg rs1).toNat / 2))))

/-- 45 R371, R372, R379, R380: compressed loads and stores of a word at an unsigned scaled offset; what a store remembers is
spelled out in `StoreResult` (20 R167, log 14). -/
def Obligations.CompressedAccessResults : Prop :=
  ∀ (s : State),
    (∀ (rd rs1 : CReg) (imm : BitVec 5) (a : Word), a = s.reg (cr rs1) + BitVec.ofNat 32 (4 * imm.toNat) →
      (s.loadsMemory a .word → Computes (.cLw rd rs1 imm) s (cr rd) (s.wordAt a) 2) ∧
      (s.storesMemory a .word → Stores (.cSw rd rs1 imm) s a 4 (s.reg (cr rd)) 2)) ∧
    (∀ (r : Reg) (imm : BitVec 6) (a : Word), a = s.reg 2 + BitVec.ofNat 32 (4 * imm.toNat) →
      (s.loadsMemory a .word → Computes (.cLwsp r imm) s r (s.wordAt a) 2) ∧
      (s.storesMemory a .word → Stores (.cSwsp r imm) s a 4 (s.reg r) 2))

/-! ### Fences and the instruction cache (43 R314, R315; 46 R400 to R403; 20 R162 to R176) -/

/-- 43 R314: FENCE moves the pc only. 43 R315, 20 R166: FENCE.I empties the cache in use and every fetch right after it reads
memory; with no cache, or with MHCR.IE = 0 unless the configuration says otherwise (log 35), it leaves the cache as it was.
46 R400 to R403: in machine mode with THEADISAEE = 1 ICACHE.IALL empties the cache and ICACHE.IPA drops the line of its address;
else both raise IllegalInstruction. The model's choices: with MHCR.IE = 0 too FENCE.I drops the remembered values of the hart's
own stores (log 35); ICACHE.IALL and ICACHE.IPA keep them (log 14). -/
def Obligations.FenceAndCacheResults : Prop :=
  ∀ (s : State),
    (∀ p q, GoesTo (.fence p q) s (s.pc + 4)) ∧
    (∃ t, exec .fenceI s = .next t ∧
      t = { s with icache := t.icache, stale := [], pc := s.pc + 4, minstret := s.minstret + 1 } ∧
      (s.cfg.icacheSize ≠ .none → s.csr.icacheEnable = true ∨ s.cfg.fenceIEmptiesIdleCache = true →
        ∀ line, t.icache.view line = .absent) ∧
      (s.cfg.icacheSize = .none ∨ s.csr.icacheEnable = false ∧ s.cfg.fenceIEmptiesIdleCache = false →
        t.icache = s.icache) ∧
      ∀ a h u, t.fetchHalf a = .ok (h, u) → h = t.halfAt a) ∧
    (s.priv = .machine → s.csr.theadisaee = true →
      (∃ t, exec .icacheIall s = .next t ∧
        t = { s with icache := t.icache, pc := s.pc + 4, minstret := s.minstret + 1 } ∧
        ∀ line, t.icache.view line = .absent) ∧
      ∀ rs1, ∃ t, exec (.icacheIpa rs1) s = .next t ∧
        t = { s with icache := t.icache, pc := s.pc + 4, minstret := s.minstret + 1 } ∧
        ∀ line, t.icache.view line = if line = (s.reg rs1).toNat / 16 then .absent else s.icache.view line) ∧
    (s.priv = .user ∨ s.csr.theadisaee = false →
      Raises .icacheIall s 2 0x0100000B ∧
      ∀ rs1 : Reg, Raises (.icacheIpa rs1) s 2 (0x0380000B + BitVec.ofNat 32 (rs1.val * 2 ^ 15)))

/-- 20 R167, R171, R173: a fetch returns what memory holds, or an older value of the parcel, or what the copy of its line holds;
it changes only the cache, by recording the line as memory holds it, and the count of draws. For lines that something has
filled or invalidated since reset, or with the cache out of use (log 13, 14). -/
def Obligations.FetchOldOrNew : Prop :=
  ∀ (s t : State) (a : Word) (h : Half), s.fetchHalf a = .ok (h, t) →
    (s.usesIcache a = true → s.icache.view (lineOf a) ≠ .anything) →
    (h = s.halfAt a ∨ (a.toNat, h) ∈ s.stale ∨
      s.usesIcache a = true ∧ ∃ bytes, s.icache.view (lineOf a) = .copy bytes ∧ h = copyParcel bytes a) ∧
    t = { s with icache := t.icache, draws := t.draws } ∧
    ∀ line, t.icache.view line = s.icache.view line ∨
      line = lineOf a ∧ s.usesIcache a = true ∧ t.icache.view line = .copy (memoryLine s.mem line)

/-! ### Exceptions, calls and returns (43 R310 to R313; 60 R411 to R440, R474) -/

/-- 60 R411, R420 to R423, R431 to R433, R436: taking an exception, for every exception; its code and what MTVAL receives. -/
def Obligations.ExceptionEntry : Prop :=
  (∀ (s : State) (e : Exc), ∃ t, raise s e = .next t ∧ TrapOutcome s t e.code e.info) ∧
  ∀ a : Word,
    ((Exc.instrAccessFault a).code = 1 ∧ (Exc.instrAccessFault a).info = a) ∧
    ((Exc.illegal a).code = 2 ∧ (Exc.illegal a).info = a) ∧
    (Exc.breakpoint.code = 3 ∧ Exc.breakpoint.info = 0) ∧
    ((Exc.loadMisaligned a).code = 4 ∧ (Exc.loadMisaligned a).info = a) ∧
    ((Exc.loadAccessFault a).code = 5 ∧ (Exc.loadAccessFault a).info = a) ∧
    ((Exc.storeMisaligned a).code = 6 ∧ (Exc.storeMisaligned a).info = a) ∧
    ((Exc.storeAccessFault a).code = 7 ∧ (Exc.storeAccessFault a).info = a) ∧
    (Exc.ecallU.code = 8 ∧ Exc.ecallU.info = 0) ∧ (Exc.ecallM.code = 11 ∧ Exc.ecallM.info = 0)

/-- 43 R310: ECALL raises EcallU or EcallM. 43 R311, 45 R364: EBREAK and C.EBREAK raise Breakpoint, or enter debug mode under
`EBREAK_ENTERS_DEBUG` (log 23). 43 R313: WFI sleeps in machine mode and is illegal in user mode. -/
def Obligations.CallBreakWaitResults : Prop :=
  ∀ (s : State),
    (s.priv = .user → Raises .ecall s 8 0) ∧ (s.priv = .machine → Raises .ecall s 11 0) ∧
    (s.cfg.ebreakEntersDebug = false → Raises .ebreak s 3 0 ∧ Raises .cEbreak s 3 0) ∧
    (s.cfg.ebreakEntersDebug = true →
      exec .ebreak s = .next { s with debugMode := true } ∧ exec .cEbreak s = .next { s with debugMode := true }) ∧
    (s.priv = .machine →
      exec .wfi s = .next { s with pc := s.pc + 4, minstret := s.minstret + 1, sleeping := true }) ∧
    (s.priv = .user → Raises .wfi s 2 0x10500073)

/-- 60 R440, 43 R312: MRET in machine mode outside an NMI handler, counted as retired (10 R66, log 28); in user mode it is
illegal (43 R312, 60 R490). -/
def Obligations.ReturnFromTrap : Prop :=
  ∀ (s : State),
    (s.priv = .machine → s.inNmi = false →
      exec .mret s = .next { s with
        pc := s.csr.mepc
        priv := s.csr.status.mpp
        minstret := s.minstret + 1
        csr := { s.csr with
          mil := s.csr.cause.mpil
          status := { s.csr.status with
            mie := s.csr.status.mpie
            mpie := true
            mpp := if s.cfg.hasUmode then .user else .machine }
          ex := { s.csr.ex with exptVld := false } } }) ∧
    (s.priv = .user → Raises .mret s 2 0x30200073)

/-- 60 R474: MRET in machine mode inside an NMI handler. A saved mode that is no mode of this core is taken as such a write of
MPP is, under each value of `MPP_ILLEGAL_WRITE` (10 R42, D33; log 17). -/
def Obligations.ReturnFromNmi : Prop :=
  ∀ (s : State), s.priv = .machine → s.csr.cause.interrupt = false → s.csr.cause.code = 24 →
    ∃ t, exec .mret s = .next t ∧
      t = { s with
        pc := s.csr.mepc
        priv := s.csr.status.mpp
        minstret := s.minstret + 1
        lockupNmi := false
        draws := t.draws
        csr := { s.csr with
          mepc := s.csr.mnmipc
          cause := { s.csr.cause with code := s.csr.nmi.vector, interrupt := s.csr.nmi.intr }
          status := { s.csr.status with
            mie := if s.cfg.nmiTouchesMie then s.csr.status.mpie else s.csr.status.mie
            mpie := s.csr.nmi.mpie
            mpp := t.csr.status.mpp }
          nmi := { s.csr.nmi with mpp := if s.cfg.hasUmode then 0 else 3 } } } ∧
      (s.csr.nmi.mpp = 3#2 → t.csr.status.mpp = .machine ∧ t.draws = s.draws) ∧
      (s.csr.nmi.mpp = 0#2 → s.cfg.hasUmode = true → t.csr.status.mpp = .user ∧ t.draws = s.draws) ∧
      (illegalMpp s.cfg s.csr.nmi.mpp → MppAfterIllegal s t.csr.status.mpp ∧
        (s.cfg.mppIllegalWrite ≠ .anyLegal → t.draws = s.draws))

/-! ### Control registers (10 R30 to R99; 43 R300 to R309) -/

/-- 43 R300 to R307, R309: the six instructions, on every register but the three of 43 R308, in machine mode. A form that
writes MCPUID completes where the configuration does not have it trap, the write being ignored: DEDUCED from D5 and C21, against
10 R99 and 43 R300 step 4 (log 19). -/
def Obligations.CsrInstructionResults : Prop :=
  ∀ (s : State) (rd rs1 : Reg) (n : BitVec 12) (imm : BitVec 5), s.priv = .machine →
    CsrExchanges (.csrrw rd n rs1) s rd n
      (fun _ => if s.cfg.csrWriteNoteLiteral = true ∧ rs1 = 0 then none else some (s.reg rs1)) ∧
    CsrExchanges (.csrrs rd n rs1) s rd n (fun old => if rs1 = 0 then none else some (old ||| s.reg rs1)) ∧
    CsrExchanges (.csrrc rd n rs1) s rd n (fun old => if rs1 = 0 then none else some (old &&& ~~~ s.reg rs1)) ∧
    CsrExchanges (.csrrwi rd n imm) s rd n
      (fun old => if s.cfg.csrWriteNoteLiteral = true ∧ imm = 0 then none
        else if s.cfg.csrrwiLow5Only then some (old.extractLsb' 5 27 ++ imm) else some (0#27 ++ imm)) ∧
    CsrExchanges (.csrrsi rd n imm) s rd n (fun old => if imm = 0 then none else some (old ||| (0#27 ++ imm))) ∧
    CsrExchanges (.csrrci rd n imm) s rd n (fun old => if imm = 0 then none else some (old &&& ~~~ (0#27 ++ imm)))

/-- 10 R31: in user mode every CSR instruction raises IllegalInstruction, whatever the number. -/
def Obligations.CsrUserModeIllegal : Prop :=
  ∀ (s : State) (i : Instr) (n : BitVec 12), csrNumber i = some n → s.priv = .user → Raises i s 2 (encode i).toWord

/-- 10 R32 to R34, 43 R300 steps 3 and 4: in machine mode a CSR instruction raises IllegalInstruction on a number that is not in
the table, and, if it performs a write, on the four id registers, and on MCPUID where the configuration says so (log 19); the
model's registers are those of the table. -/
def Obligations.CsrIllegalAccesses : Prop :=
  (∀ n : BitVec 12, (csr? n).isSome = true ↔ n ∈ csrNumbers) ∧
  ∀ (s : State) (i : Instr) (n : BitVec 12), csrNumber i = some n → s.priv = .machine →
    (n ∉ csrNumbers ∨
      csrWriteForm s.cfg i = true ∧ (n = 0xF11 ∨ n = 0xF12 ∨ n = 0xF13 ∨ n = 0xF14 ∨
        n = 0xFC0 ∧ s.cfg.mcpuidWriteTraps = true)) →
    Raises i s 2 (encode i).toWord

/-- 10 R36 to R99: what the registers read: the constants, the plain registers, the fields at the positions the manual gives,
the PMP registers, with absent entries 0 (D14), and, under the reference layout (log 6), the whole words. Open bits of MTVEC:
log 11; LPMD after a wake-up: log 12; a read that draws an open value changes the count of draws only (log 10); MCYCLE and MCYCLEH count on by an open number of cycles: log 10; the words of MCPUID in
turn: log 19. -/
def Obligations.CsrReadValues : Prop :=
  ∀ (s : State),
    (s.csrRead .mvendorid = (0x000005B7, s) ∧ s.csrRead .marchid = (0, s) ∧ s.csrRead .mimpid = (0, s) ∧
      s.csrRead .mhartid = (0, s) ∧ s.csrRead .misa = (0x40901105, s) ∧ s.csrRead .mie = (0, s) ∧
      s.csrRead .mip = (0, s) ∧ s.csrRead .mclicbase = (0xE0800000, s) ∧ s.csrRead .mraddr = (s.cfg.resetAddr, s)) ∧
    (s.csrRead .mscratch = (s.csr.mscratch, s) ∧ s.csrRead .mepc = (s.csr.mepc, s) ∧
      s.csrRead .mtval = (s.csr.mtval, s) ∧ s.csrRead .mnmipc = (s.csr.mnmipc, s) ∧
      s.csrRead .mtvt = (s.csr.mtvt ++ 0#6, s) ∧
      s.csrRead .minstret = (s.minstret.extractLsb' 0 32, s) ∧
      s.csrRead .minstreth = (s.minstret.extractLsb' 32 32, s) ∧
      s.csrRead .mhcr = (if s.csr.icacheEnable then 1 else 0, s)) ∧
    (∀ w u, (w, u) = s.csrRead .mtvec → w.extractLsb' 6 26 = s.csr.mtvecBase ∧ w.extractLsb' 0 2 = 3#2 ∧
      u = { s with draws := u.draws } ∧ (s.csr.mtvecLowOpen = false → w.extractLsb' 2 4 = 0#4 ∧ u = s)) ∧
    (∀ w u, (w, u) = s.csrRead .mexstatus →
      u = { s with draws := u.draws } ∧ (s.csr.ex.lpmdWoken = false → u = s)) ∧
    (∀ (k : Fin 4) (i : Fin 16), i.val / 4 = k.val → (s.csrRead (.pmpcfg k)).2 = s ∧
      (s.csrRead (.pmpcfg k)).1.extractLsb' (8 * (i.val % 4)) 8 =
        if i.val < s.cfg.pmpEntries.toNat then s.pmp.cfg[i.val] else 0) ∧
    (∀ i : Fin 16, s.csrRead (.pmpaddr i) = (if i.val < s.cfg.pmpEntries.toNat then s.pmp.addr[i.val] else 0, s)) ∧
    (∃ (n : BitVec 64) (u : State), u = { s with mcycle := s.mcycle + n, draws := s.draws + 1 } ∧
      s.csrRead .mcycle = (u.mcycle.extractLsb' 0 32, u) ∧ s.csrRead .mcycleh = (u.mcycle.extractLsb' 32 32, u)) ∧
    (∃ (l : List Word) (k : Nat), l = s.cfg.mcpuidFirst :: s.cfg.mcpuidRest ∧ k = s.mcpuidNext % l.length ∧
      l[k]? = some (s.csrRead .mcpuid).1 ∧ (s.csrRead .mcpuid).2 = { s with mcpuidNext := (s.csrRead .mcpuid).2.mcpuidNext } ∧
      (s.csrRead .mcpuid).2.mcpuidNext = (s.mcpuidNext + 1) % l.length) ∧
    (∀ w u, (w, u) = s.csrRead .mcause → u = s ∧ w.getLsbD 31 = s.csr.cause.interrupt ∧
      w.getLsbD 30 = s.csr.cause.minhv ∧
      w.extractLsb' 28 2 = (match s.csr.status.mpp with | .machine => 3#2 | .user => 0#2) ∧
      w.getLsbD 27 = s.csr.status.mpie ∧ w.extractLsb' 24 3 = 0#3 ∧ w.extractLsb' 16 8 = s.csr.cause.mpil ∧
      w.extractLsb' 12 4 = 0#4 ∧ w.extractLsb' 0 12 = s.csr.cause.code) ∧
    (s.cfg.layout = .reference →
      (∀ w u, (w, u) = s.csrRead .mstatus → u = s ∧ w &&& ~~~ 0x00021888 = 0 ∧ w.getLsbD 3 = s.csr.status.mie ∧
        w.getLsbD 7 = s.csr.status.mpie ∧
        w.extractLsb' 11 2 = (match s.csr.status.mpp with | .machine => 3#2 | .user => 0#2) ∧
        w.getLsbD 17 = s.csr.status.mprv) ∧
      s.csrRead .mintstatus = (s.csr.mil ++ 0#24, s) ∧
      (∀ w u, (w, u) = s.csrRead .mcounteren → u = s ∧ w &&& ~~~ 7 = 0 ∧ w.getLsbD 0 = s.csr.counterCy ∧
        w.getLsbD 1 = s.csr.counterTm ∧ w.getLsbD 2 = s.csr.counterIr) ∧
      (∀ w u, (w, u) = s.csrRead .mnmicause → u = s ∧ w &&& ~~~ 0xB8000FFF = 0 ∧ w.getLsbD 31 = s.csr.nmi.intr ∧
        w.extractLsb' 28 2 = s.csr.nmi.mpp ∧ w.getLsbD 27 = s.csr.nmi.mpie ∧ w.extractLsb' 0 12 = s.csr.nmi.vector) ∧
      (∀ w u, (w, u) = s.csrRead .mxstatus → u = s ∧ w &&& ~~~ 0xC0400000 = 0 ∧
        w.extractLsb' 30 2 = (match s.priv with | .machine => 3#2 | .user => 0#2) ∧ w.getLsbD 22 = s.csr.theadisaee) ∧
      (∀ w u, (w, u) = s.csrRead .mexstatus → w &&& ~~~ 0x7F = 0 ∧ w.extractLsb' 0 2 = s.csr.ex.softRst ∧
        (w.extractLsb' 2 2 = s.csr.ex.lpmd ∨ s.csr.ex.lpmdWoken = true ∧ w.extractLsb' 2 2 = 3#2) ∧
        w.getLsbD 4 = s.csr.ex.wfe ∧ w.getLsbD 5 = s.csr.ex.exptVld ∧ w.getLsbD 6 = s.csr.ex.lockup))

/-- 10 R42 to R99, 43 R300 step 7: what a register reads after it is written, and that a write leaves every other register and
the rest of the state as it was (`CsrFrame`). What a value that is no mode leaves in MPP, by MSTATUS and by MCAUSE: D33, under
each value of `MPP_ILLEGAL_WRITE` (log 17). The positions the manual lost are those of the reference layout (log 6). That a write of LPMD ends what a wake-up left open is log 12; a write of MCPUID that does not trap
is ignored (D5, log 19). -/
def Obligations.CsrWriteReadBack : Prop :=
  ∀ (s : State) (v : Word),
    (∀ r, CsrFrame s (s.csrWrite r v) r) ∧
    (∀ r, r = .mscratch ∨ r = .mtval ∨ r = .minstret ∨ r = .minstreth → ((s.csrWrite r v).csrRead r).1 = v) ∧
    ((s.csrWrite .minstret v).csrRead .minstreth).1 = (s.csrRead .minstreth).1 ∧
    ((s.csrWrite .minstreth v).csrRead .minstret).1 = (s.csrRead .minstret).1 ∧
    (s.csrWrite .mcycle v).mcycle = s.mcycle.extractLsb' 32 32 ++ v ∧
    (s.csrWrite .mcycleh v).mcycle = v ++ s.mcycle.extractLsb' 0 32 ∧
    (∀ r, r = .mepc ∨ r = .mnmipc → ((s.csrWrite r v).csrRead r).1 = v &&& 0xFFFFFFFE) ∧
    ((s.csrWrite .mtvt v).csrRead .mtvt).1 = v &&& 0xFFFFFFC0 ∧
    (v.extractLsb' 2 4 = 0#4 → ((s.csrWrite .mtvec v).csrRead .mtvec).1 = (v &&& 0xFFFFFFC0) ||| 3) ∧
    (s.cfg.icacheSize ≠ .none → ((s.csrWrite .mhcr v).csrRead .mhcr).1 = v &&& 1) ∧
    (∀ r, r = .misa ∨ r = .mie ∨ r = .mip ∨ r = .mintstatus ∨ r = .mclicbase ∨ r = .mraddr ∨ r = .mcpuid →
      s.csrWrite r v = s) ∧
    (v.extractLsb' 28 2 = 3#2 ∨ v.extractLsb' 28 2 = 0#2 ∧ s.cfg.hasUmode = true →
      ((s.csrWrite .mcause v).csrRead .mcause).1 = v &&& 0xF8FF0FFF) ∧
    (illegalMpp s.cfg (v.extractLsb' 28 2) →
      MppAfterIllegal s (s.csrWrite .mcause v).csr.status.mpp ∧
      ((s.csrWrite .mcause v).csrRead .mcause).1 &&& 0xCFFFFFFF = v &&& 0xC8FF0FFF) ∧
    (illegalMpp s.cfg (v.extractLsb' 11 2) → MppAfterIllegal s (s.csrWrite .mstatus v).csr.status.mpp) ∧
    (s.cfg.layout = .reference →
      (v.extractLsb' 11 2 = 3#2 ∨ v.extractLsb' 11 2 = 0#2 ∧ s.cfg.hasUmode = true →
        ((s.csrWrite .mstatus v).csrRead .mstatus).1 = v &&& 0x00021888 ∧
        ((s.csrWrite .mstatus v).csrRead .mcause).1.extractLsb' 28 2 = v.extractLsb' 11 2 ∧
        ((s.csrWrite .mstatus v).csrRead .mcause).1.getLsbD 27 = v.getLsbD 7) ∧
      (illegalMpp s.cfg (v.extractLsb' 11 2) →
        ((s.csrWrite .mstatus v).csrRead .mstatus).1 &&& 0xFFFFE7FF = v &&& 0x00020088) ∧
      ((s.csrWrite .mcounteren v).csrRead .mcounteren).1 = v &&& 7 ∧
      ((s.csrWrite .mxstatus v).csrRead .mxstatus).1 =
        (v &&& 0x00400000) ||| ((s.csrRead .mxstatus).1 &&& 0xC0000000) ∧
      ((s.csrWrite .mnmicause v).csrRead .mnmicause).1 = v &&& 0xB8000FFF ∧
      (s.csrWrite .mexstatus v).csr.ex = { s.csr.ex with
        softRst := v.extractLsb' 0 2
        lpmd := if v.getLsbD 3 then s.csr.ex.lpmd else v.extractLsb' 2 2
        lpmdWoken := if v.getLsbD 3 then s.csr.ex.lpmdWoken else false
        wfe := v.getLsbD 4 })

/-- 10 R51, R52, 43 R308, D28: the conditional swaps, CSRRW with a destination other than x0, or with any where the
configuration says so (log 20); every other form on the three numbers is refused. -/
def Obligations.ScratchSwapResults : Prop :=
  ∀ (s : State), s.priv = .machine →
    (∀ (rd rs1 : Reg) (n : BitVec 12) (swap : Prop), rd ≠ 0 ∨ s.cfg.scratchSwapWithoutRd = true →
      (n = 0x348 ∧ (swap ↔ s.csr.status.mpp ≠ .machine) ∨
        n = 0x349 ∧ (swap ↔ ¬ (s.csr.cause.mpil = 0 ↔ s.csr.mil = 0))) →
      ∃ t, exec (.csrrw rd n rs1) s = .next t ∧
        t = { s with
          regs := t.regs
          pc := s.pc + 4
          minstret := s.minstret + 1
          csr := { s.csr with mscratch := t.csr.mscratch } } ∧
        (swap → (rd ≠ 0 → t.reg rd = s.csr.mscratch) ∧ t.csr.mscratch = s.reg rs1) ∧
        (¬ swap → (rd ≠ 0 → t.reg rd = s.reg rs1) ∧ t.csr.mscratch = s.csr.mscratch) ∧
        t.reg 0 = 0 ∧ ∀ r, r ≠ rd → t.reg r = s.reg r) ∧
    (∀ i n, csrNumber i = some n →
      (n = 0x348 ∨ n = 0x349) ∧ (∀ rd m rs1, i = .csrrw rd m rs1 → rd = 0 ∧ s.cfg.scratchSwapWithoutRd = false) ∨
        n = 0x345 ∧ (∀ rd m imm, i ≠ .csrrsi rd m imm ∧ i ≠ .csrrci rd m imm) →
      exec i s = .refused .csrForm)

/-- 10 R58, R59, 43 R308: CSRRSI and CSRRCI on MNXTI set or clear MIE and hand out the presented interrupt if it is above the
threshold, above MCAUSE.MPIL and not vectored, else 0; under the reference layout (log 6). The claim clears an edge-triggered
pending bit unless this same step saw a further edge (log 15). -/
def Obligations.NextInterruptResults : Prop :=
  ∀ (s : State) (i : Instr) (rd : Reg) (imm : BitVec 5) (mie : Bool), s.priv = .machine → s.cfg.layout = .reference →
    (s.cfg.hasUmode = false → s.csr.status.mpp = .machine) →
    (i = .csrrsi rd 0x345 imm ∧ mie = (s.csr.status.mie || imm.getLsbD 3) ∨
      i = .csrrci rd 0x345 imm ∧ mie = (s.csr.status.mie && !imm.getLsbD 3)) →
    ∃ t, exec i s = .next t ∧ t.reg 0 = 0 ∧ (∀ r, r ≠ rd → t.reg r = s.reg r) ∧
      (∀ x, s.presented = some x → s.clic.mth < s.levelOf x → s.csr.cause.mpil < s.levelOf x → x.shv = false →
        (rd ≠ 0 → t.reg rd = (s.csr.mtvt ++ 0#6) + BitVec.ofNat 32 (4 * x.id)) ∧
        t = { s with
          regs := t.regs
          pc := s.pc + 4
          minstret := s.minstret + 1
          csr := { s.csr with
            mil := s.levelOf x
            status := { s.csr.status with mie := mie }
            cause := { s.csr.cause with code := BitVec.ofNat 12 x.id } }
          clic := { s.clic with
            sources := s.clic.sources.map fun y =>
              if y.id = x.id ∧ y.trig.getLsbD 0 = true then { y with ip := y.edge && y.held } else y } }) ∧
      ((∀ x, s.presented = some x →
          ¬ (s.clic.mth < s.levelOf x ∧ s.csr.cause.mpil < s.levelOf x ∧ x.shv = false)) →
        (rd ≠ 0 → t.reg rd = 0) ∧
        t = { s with
          regs := t.regs
          pc := s.pc + 4
          minstret := s.minstret + 1
          csr := { s.csr with status := { s.csr.status with mie := mie } } })

/-! ### Memory protection (10 R63, R64; 20 R143 to R153) -/

/-- 10 R63, R64, 20 R147: what a write of a PMP register leaves: an entry's byte takes the written byte without its reserved
bits if the entry exists and is not locked; an address register takes the value if its entry exists and is not locked and the
next entry is not locked in TOR mode; nothing else changes. Entries that do not exist keep their value, and a core without
entries checks nothing (D13, D14, log 33). -/
def Obligations.PmpWriteRules : Prop :=
  ∀ (s : State) (v : Word),
    (∀ (k : Fin 4) (i : Fin 16), (s.csrWrite (.pmpcfg k) v).pmp.cfg[i.val] =
      if i.val / 4 = k.val ∧ i.val < s.cfg.pmpEntries.toNat ∧ s.pmp.cfg[i.val].getLsbD 7 = false then
        v.extractLsb' (8 * (i.val % 4)) 8 &&& 0x9F
      else s.pmp.cfg[i.val]) ∧
    (∀ k : Fin 4, s.csrWrite (.pmpcfg k) v =
      { s with pmp := { s.pmp with cfg := (s.csrWrite (.pmpcfg k) v).pmp.cfg } }) ∧
    (∀ i : Fin 16, i.val < s.cfg.pmpEntries.toNat → s.pmp.cfg[i.val].getLsbD 7 = false →
      (∀ j : Fin 16, j.val = i.val + 1 →
        ¬ (s.pmp.cfg[j.val].getLsbD 7 = true ∧ s.pmp.cfg[j.val].extractLsb' 3 2 = 1#2)) →
      s.csrWrite (.pmpaddr i) v = { s with pmp := { s.pmp with addr := s.pmp.addr.set i.val v } } ∧
        ((s.csrWrite (.pmpaddr i) v).csrRead (.pmpaddr i)).1 = v) ∧
    (∀ i : Fin 16,
      (s.cfg.pmpEntries.toNat ≤ i.val ∨ s.pmp.cfg[i.val].getLsbD 7 = true ∨
        ∃ j : Fin 16, j.val = i.val + 1 ∧ s.pmp.cfg[j.val].getLsbD 7 = true ∧
          s.pmp.cfg[j.val].extractLsb' 3 2 = 1#2) →
      s.csrWrite (.pmpaddr i) v = s) ∧
    (s.cfg.pmpEntries = .none → ∀ p kind a, s.pmpAllows p kind a = true)

/-- 20 R147: nothing but reset, and a debugger that replaces the state (60 R500), modifies a locked entry, nor the address
register below an entry locked in TOR mode. -/
def Obligations.PmpLockedUntilReset : Prop :=
  ∀ (s t : State) (i : Fin 16), step s = .next t →
    (∀ events ∈ s.schedule.head?, ∀ e ∈ events, (∀ n, e ≠ .reset n) ∧ ∀ m, e ≠ .debugReplace m) →
    s.pmp.cfg[i.val].getLsbD 7 = true →
    t.pmp.cfg[i.val] = s.pmp.cfg[i.val] ∧ t.pmp.addr[i.val] = s.pmp.addr[i.val] ∧
      ∀ j : Fin 16, j.val + 1 = i.val → s.pmp.cfg[i.val].extractLsb' 3 2 = 1#2 →
        t.pmp.addr[j.val] = s.pmp.addr[j.val]

/-- 20 R148, R149, R151: on a core with PMP entries the lowest-numbered matching entry decides by its lock, the privilege and
the permission bit; without a match machine privilege passes and user privilege fails. -/
def Obligations.PmpDecision : Prop :=
  ∀ (s : State) (p : Priv) (kind : AccessKind) (a : Word),
    (∀ i : Fin 16, i.val < s.cfg.pmpEntries.toNat → (s.pmpEntry i).hits a = true →
      (∀ j : Fin 16, j.val < i.val → (s.pmpEntry j).hits a = false) →
      s.pmpAllows p kind a =
        if s.pmp.cfg[i.val].getLsbD 7 = false ∧ p = .machine then true
        else s.pmp.cfg[i.val].getLsbD (match kind with | .load => 0 | .store => 1 | .fetch => 2)) ∧
    (s.cfg.pmpEntries ≠ .none →
      (∀ i : Fin 16, i.val < s.cfg.pmpEntries.toNat → (s.pmpEntry i).hits a = false) →
      s.pmpAllows p kind a = decide (p = .machine))

/-- 20 R143 to R146: what an entry matches in each of its four modes, TOR in the reading of C12; the lower bound of a TOR entry
is the address register below it, and 0 for entry 0; a TOR entry never matches the last four bytes. -/
def Obligations.PmpMatch : Prop :=
  (∀ (e : PmpEntry) (a : Word),
    (e.cfg.extractLsb' 3 2 = 0#2 → e.hits a = false) ∧
    (e.cfg.extractLsb' 3 2 = 1#2 → (e.hits a = true ↔
      4 * (e.below.toNat % 2 ^ 30) ≤ a.toNat ∧ a.toNat < 4 * (e.addr.toNat % 2 ^ 30)) ∧
      (0xFFFFFFFC#32 ≤ a → e.hits a = false)) ∧
    (e.cfg.extractLsb' 3 2 = 2#2 → (e.hits a = true ↔ a.toNat / 4 = e.addr.toNat % 2 ^ 30)) ∧
    (e.cfg.extractLsb' 3 2 = 3#2 → ∀ k, e.addr.toNat % 2 ^ (k + 1) = 2 ^ k - 1 →
      (e.hits a = true ↔ a.toNat / 2 ^ (k + 3) = e.addr.toNat % 2 ^ 30 / 2 ^ (k + 1)))) ∧
  ∀ (s : State) (i : Fin 16), (s.pmpEntry i).cfg = s.pmp.cfg[i.val] ∧ (s.pmpEntry i).addr = s.pmp.addr[i.val] ∧
    (i = 0 → (s.pmpEntry i).below = 0) ∧ ∀ j : Fin 16, j.val + 1 = i.val → (s.pmpEntry i).below = s.pmp.addr[j.val]

/-! ### Privilege (60 R490, R491; 10 R29) -/

/-- 60 R490, 20 R150: an instruction executed in user mode leaves the mode, every control register, the protection and the debug
unit as they are unless it takes an exception; it changes only bytes of memory that the PMP lets its data accesses store to;
and it leaves the devices as they are unless MSTATUS.MPRV and MPP give its data accesses machine privilege. -/
def Obligations.UserModeConfined : Prop :=
  ∀ (s t : State) (i : Instr), s.priv = .user → exec i s = .next t →
    (KeepsPrivileged s t ∨ ∃ code info, TrapOutcome s t code info) ∧
    (s.dataPriv = .user → t.clint = s.clint ∧ t.clic = s.clic) ∧
    ∀ a, t.byteAt a ≠ s.byteAt a → s.pmpAllows s.dataPriv .store a = true ∧ inTcip a = false

/-- 60 R491, 10 R29: an instruction leaves the mode as it is, or takes an exception, which goes to machine mode, or is MRET in
machine mode, which goes to MSTATUS.MPP. -/
def Obligations.PrivilegeChanges : Prop :=
  ∀ (s t : State) (i : Instr), exec i s = .next t →
    t.priv = s.priv ∨ (t.priv = .machine ∧ ∃ code info, TrapOutcome s t code info) ∨
      (i = .mret ∧ s.priv = .machine ∧ t.priv = s.csr.status.mpp)

/-! ### Interrupts (60 R442 to R453, R459) -/

/-- 60 R443, R456, R459, R460: the source signals and what sampling them does; an NMI request becomes pending (R415). The
model's own `edge` says that this sampling saw the edge the source is configured for, and `held` that an edge-triggered source
was pending before it (log 15); the bit a level source stores is seen only after a switch to edge (log 16). The external
interrupt pin is taken as active low (log 32). The pins take what the platform supplies, but the counter never
decreases except by wrapping (R458). -/
def Obligations.SourceSampling : Prop :=
  ∀ (s : State),
    (s.sourceSignal 3 = s.clint.msip ∧
      (s.sourceSignal 7 = true ↔ s.clint.mtimecmp.toNat ≤ s.inputs.sysCnt.toNat) ∧
      s.sourceSignal 11 = !s.inputs.extIntB ∧
      ∀ k, k < 240 → s.sourceSignal (16 + k) = s.inputs.lines.getLsbD k) ∧
    (∀ i : Inputs, ∃ t, s.hostEvent (.inputs i) = .ok t ∧ t = { s with inputs := { i with sysCnt := t.inputs.sysCnt } } ∧
      t.inputs.sysCnt = if s.inputs.sysCnt.toNat ≤ i.sysCnt.toNat ∨ s.inputs.sysCnt.toNat = 2 ^ 64 - 1 ∧ i.sysCnt = 0
        then i.sysCnt else s.inputs.sysCnt) ∧
    (∃ l : List ClicSource, s.sample = { s with
        sinceReset := s.sample.sinceReset
        clic := { s.clic with sources := l }
        nmiPending := s.nmiPending || s.inputs.nmiReq } ∧
      List.Forall₂ (fun x y : ClicSource =>
        y = { x with ip := y.ip, edge := y.edge, held := y.held, prev := s.sourceSignal x.id } ∧
        (x.trig.getLsbD 0 = false → y.edge = false ∧ y.held = false ∧ y.ip = s.sourceSignal x.id) ∧
        (x.trig = 1#2 → y.edge = (!x.prev && s.sourceSignal x.id) ∧ y.held = x.ip ∧ y.ip = (x.ip || y.edge)) ∧
        (x.trig = 3#2 → y.edge = (x.prev && !s.sourceSignal x.id) ∧ y.held = x.ip ∧ y.ip = (x.ip || y.edge)) ∧
        (x.trig.getLsbD 0 = false → s.sample.pending y = s.sourceSignal x.id) ∧
        (x.trig = 1#2 → s.sample.pending y = (x.ip || (!x.prev && s.sourceSignal x.id))) ∧
        (x.trig = 3#2 → s.sample.pending y = (x.ip || (x.prev && !s.sourceSignal x.id)))) s.clic.sources l)

/-- 60 R444 to R446: the presented interrupt is a pending and enabled source of the greatest CLICINTCTL, the largest id among
equals; the level is monotonic in CLICINTCTL; it is taken if its level is above MINTTHRESH and above MINTSTATUS.MIL, interrupts
are enabled and no NMI is being handled. -/
def Obligations.InterruptSelection : Prop :=
  ∀ (s : State),
    (∀ x, s.presented = some x →
      x ∈ s.clic.sources ∧ (s.pending x = true ∧ x.ie = true ∧ 0#8 < x.ctl) ∧
      ∀ y ∈ s.clic.sources, s.pending y = true → y.ie = true → 0#8 < y.ctl →
        y.ctl < x.ctl ∨ y.ctl = x.ctl ∧ y.id ≤ x.id) ∧
    (s.presented = none ↔ ∀ y ∈ s.clic.sources, ¬ (s.pending y = true ∧ y.ie = true ∧ 0#8 < y.ctl)) ∧
    (∀ x y : ClicSource, x.ctl ≤ y.ctl → s.levelOf x ≤ s.levelOf y) ∧
    (∀ (x : ClicSource) (n : Nat), n = min s.clic.nlbits.toNat s.cfg.ctlBits.toNat →
      (s.levelOf x).toNat = x.ctl.toNat / 2 ^ (8 - n) * 2 ^ (8 - n) + (2 ^ (8 - n) - 1)) ∧
    (∀ x, s.interruptToTake = some x ↔
      s.presented = some x ∧ s.clic.mth < s.levelOf x ∧ s.csr.mil < s.levelOf x ∧
        (s.csr.status.mie = true ∨ s.cfg.uModeIgnoresMie = true ∧ s.priv = .user) ∧
        ¬ (s.csr.cause.interrupt = false ∧ s.csr.cause.code = 24))

/-- 60 R415, R451 to R453: the step that takes an interrupt, not vectored and vectored; a vectored entry whose table word cannot
be read, for a bus error or an address in the TCIP region, is refused (D25). A vectored entry clears an edge-triggered
pending bit unless this same step saw a further edge (log 15). -/
def Obligations.InterruptEntryStep : Prop :=
  ∀ (s u : State) (x : ClicSource), s.quiet → s.running → u = s.sample → (u.nmiPending = false ∨ u.inNmi = true) →
    u.interruptToTake = some x →
    (x.shv = false → step s = .next { u with
      pc := u.csr.mtvecBase ++ 0#6
      priv := .machine
      csr := { u.csr with
        mepc := u.pc
        mil := u.levelOf x
        cause := { u.csr.cause with code := BitVec.ofNat 12 x.id, interrupt := true, mpil := u.csr.mil }
        status := { u.csr.status with mpie := u.csr.status.mie, mie := false, mpp := u.priv } } }) ∧
    (x.shv = true → ∀ a : Word, a = (u.csr.mtvt ++ 0#6) + BitVec.ofNat 32 (4 * x.id) → inTcip a = false →
      u.busError a .word .load = false → step s = .next { u with
        pc := u.wordAt a &&& 0xFFFFFFFE
        priv := .machine
        csr := { u.csr with
          mepc := u.pc
          mil := u.levelOf x
          cause := { u.csr.cause with
            code := BitVec.ofNat 12 x.id, interrupt := true, minhv := false, mpil := u.csr.mil }
          status := { u.csr.status with mpie := u.csr.status.mie, mie := false, mpp := u.priv } }
        clic := { u.clic with
          sources := u.clic.sources.map fun y =>
            if y.id = x.id ∧ y.trig.getLsbD 0 = true then { y with ip := y.edge && y.held } else y } }) ∧
    (x.shv = true → ∀ a : Word, a = (u.csr.mtvt ++ 0#6) + BitVec.ofNat 32 (4 * x.id) →
      inTcip a = true ∨ u.busError a .word .load = true → step s = .refused .vectorFetch)

/-- 60 R434, R470, R471, R472: the step that takes an NMI, from running or from lockup. -/
def Obligations.NmiEntryStep : Prop :=
  ∀ (s u : State), s.quiet → s.debugMode = false → s.locked = true ∨ s.sleeping = false → u = s.sample →
    u.nmiPending = true → ¬ (s.csr.cause.interrupt = false ∧ s.csr.cause.code = 24) →
    step s = .next { u with
      nmiPending := false
      lockupNmi := s.locked || s.lockupNmi
      pc := u.csr.mtvecBase ++ 0#6
      priv := .machine
      csr := { u.csr with
        mnmipc := u.csr.mepc
        mepc := u.pc
        nmi := {
          vector := u.csr.cause.code
          intr := u.csr.cause.interrupt
          mpp := match u.csr.status.mpp with | .machine => 3#2 | .user => 0#2
          mpie := u.csr.status.mpie }
        cause := { u.csr.cause with code := 24, interrupt := false }
        status := { u.csr.status with
          mpp := u.priv
          mpie := u.csr.status.mie
          mie := if u.cfg.nmiTouchesMie then false else u.csr.status.mie } } }

/-! ### The step (60 R415, R433, R511; 70 R520) -/

/-- 60 R415, R433, R500, R511, R512: in debug mode, locked up, or asleep without a wake-up condition nothing changes but the
sampled inputs, which are sampled in debug mode too (log 34); a core that wakes goes on at once, with LPMD open (log 12). -/
def Obligations.WaitingSteps : Prop :=
  ∀ (s u : State) (wakes : Prop), s.quiet → u = s.sample →
    (wakes ↔ u.nmiPending = true ∨
      u.csr.ex.wfe = true ∧ ((∃ x, u.interruptRequest = some x) ∨ u.inputs.extEvent = true) ∨
      u.csr.ex.wfe = false ∧ ∃ x, u.interruptRequest = some x ∧ u.csr.mil < u.levelOf x) →
    (s.debugMode = true → step s = .next u) ∧
    (s.debugMode = false → s.csr.ex.lockup = true → s.lockupNmi = false →
      u.nmiPending = false ∨ u.inNmi = true → step s = .next u) ∧
    (s.debugMode = false → s.locked = false → s.sleeping = true → ¬ wakes → step s = .next u) ∧
    (s.debugMode = false → s.locked = false → s.sleeping = true → wakes →
      step s = ({ u with
        sleeping := false
        csr := { u.csr with ex := { u.csr.ex with lpmdWoken := true } } } : State).boundary)

/-- 60 R415 item 6, 20 R162, R167, R173, 30 R207: where the parcels at the pc are the code of an instruction, the step is `exec`
of that instruction on the state with its inputs sampled. First for parcels read from memory as it is; then for parcels a fetch
answers in any way, the cache in use or older values remembered (what they are: `FetchOldOrNew`), the instruction executing on
the state the fetch leaves. -/
def Obligations.StepRunsDecodedInstruction : Prop :=
  ∀ (s u : State) (i : Instr) (h : Half), s.executes → u = s.sample →
    (u.fetchesMemory u.pc → h = u.halfAt u.pc →
      (h.extractLsb' 0 2 ≠ 3#2 → decodeCode u.cfg (.c16 h) = .instr i → step s = exec i u) ∧
      (h.extractLsb' 0 2 = 3#2 → u.fetchesMemory (u.pc + 2) →
        decodeCode u.cfg (.c32 (u.halfAt (u.pc + 2) ++ h)) = .instr i → step s = exec i u)) ∧
    ∀ u1, u.fetchHalf u.pc = .ok (h, u1) →
      (h.extractLsb' 0 2 ≠ 3#2 → decodeCode u.cfg (.c16 h) = .instr i → step s = exec i u1) ∧
      (h.extractLsb' 0 2 = 3#2 → ∀ h2 u2, u1.fetchHalf (u.pc + 2) = .ok (h2, u2) →
        decodeCode u.cfg (.c32 (h2 ++ h)) = .instr i → step s = exec i u2)

/-- 20 R162, 30 R203, 60 R422: a fetch the PMP denies or the bus answers with an error raises InstrAccessFault with the address
of the failing half, and a code that is no instruction raises IllegalInstruction with the code; MEPC is the pc. 70 R521, 20 R134:
the first step after reset raises InstrAccessFault where RESET_ADDR is in the TCIP region; every other fetch from the region, of
a first or a second half, is refused (log 18). A halfword that decodes to `constraint` is refused (R202, D8). The clauses on
`fetchHalf` hold however the first parcel was fetched, the cache in use or older values remembered (log 13, log 14). -/
def Obligations.FetchFaultStep : Prop :=
  ∀ (s u : State), s.executes → u = s.sample →
    (u.pmpAllows u.priv .fetch u.pc = false ∨ inTcip u.pc = false ∧ u.busError u.pc .half .fetch = true →
      ∃ t, step s = .next t ∧ TrapOutcome u t 1 u.pc) ∧
    (u.pmpAllows u.priv .fetch u.pc = true → inTcip u.pc = true →
      (s.sinceReset = .fresh ∧ u.pc = u.cfg.resetAddr → ∃ t, step s = .next t ∧ TrapOutcome u t 1 u.pc) ∧
      (¬ (s.sinceReset = .fresh ∧ u.pc = u.cfg.resetAddr) → step s = .refused .tcipFetch)) ∧
    (u.fetchesMemory u.pc → (u.halfAt u.pc).extractLsb' 0 2 = 3#2 →
      u.pmpAllows u.priv .fetch (u.pc + 2) = false ∨
        inTcip (u.pc + 2) = false ∧ u.busError (u.pc + 2) .half .fetch = true →
      ∃ t, step s = .next t ∧ TrapOutcome u t 1 (u.pc + 2)) ∧
    (u.fetchesMemory u.pc → (u.halfAt u.pc).extractLsb' 0 2 ≠ 3#2 →
      decodeCode u.cfg (.c16 (u.halfAt u.pc)) = .illegal →
      ∃ t, step s = .next t ∧ TrapOutcome u t 2 ((u.halfAt u.pc).setWidth 32)) ∧
    (u.fetchesMemory u.pc → u.fetchesMemory (u.pc + 2) → (u.halfAt u.pc).extractLsb' 0 2 = 3#2 →
      decodeCode u.cfg (.c32 (u.halfAt (u.pc + 2) ++ u.halfAt u.pc)) = .illegal →
      ∃ t, step s = .next t ∧ TrapOutcome u t 2 (u.halfAt (u.pc + 2) ++ u.halfAt u.pc)) ∧
    ∀ h u1, u.fetchHalf u.pc = .ok (h, u1) →
      (h.extractLsb' 0 2 ≠ 3#2 →
        (decodeCode u.cfg (.c16 h) = .illegal → ∃ t, step s = .next t ∧ TrapOutcome u1 t 2 (h.setWidth 32)) ∧
        (decodeCode u.cfg (.c16 h) = .constraint → step s = .refused .rvcConstraint)) ∧
      (h.extractLsb' 0 2 = 3#2 →
        (u.pmpAllows u.priv .fetch (u.pc + 2) = false ∨
            inTcip (u.pc + 2) = false ∧ u.busError (u.pc + 2) .half .fetch = true →
          ∃ t, step s = .next t ∧ TrapOutcome u1 t 1 (u.pc + 2)) ∧
        (u.pmpAllows u.priv .fetch (u.pc + 2) = true → inTcip (u.pc + 2) = true → step s = .refused .tcipFetch) ∧
        ∀ h2 u2, u1.fetchHalf (u.pc + 2) = .ok (h2, u2) → decodeCode u.cfg (.c32 (h2 ++ h)) = .illegal →
          ∃ t, step s = .next t ∧ TrapOutcome u2 t 2 (h2 ++ h))

/-- Every step keeps the invariant and the configuration, from every state that satisfies it, whatever the host does: memory
in canonical form, pc, MEPC and MNMIPC even (10 R26, R54, R92), the modes legal (R29, R42), LPMD never 2'b10 or 2'b11 (R87),
reserved and absent PMP bits 0 (R63), the CLIC's ids and tied bits (60 R442, R468), TRANS PROT non-secure (R504). -/
def Obligations.StepKeepsInv : Prop :=
  ∀ s t : State, s.Inv → step s = .next t → t.Inv ∧ t.cfg = s.cfg

/-- The state after reset satisfies the invariant, under every configuration. -/
def Obligations.ResetInv : Prop := ∀ c : Config, (State.resetWith c).Inv

/-- 10 R110, 70 R520, R522, R524: the reset values the manual states, under every configuration; whole words of registers whose
figures are lost under the reference layout (log 6). The last clause but one rests on the pins being idle, the model's choice
(log 9; the external interrupt pin high, log 32): each source's previous level is its signal (D47), IP reads 0 and no interrupt
can be taken. A reset event gives a machine in any state these same values and keeps memory, the pins, the debug unit and the
model's own fields (log 30). -/
def Obligations.ResetValues : Prop :=
  (∀ (c : Config) (s : State), s = State.resetWith c →
    (s.reg 0 = 0 ∧ s.pc = c.resetAddr ∧ s.priv = .machine ∧ (s.csrRead .mtvec).1 = 3 ∧ (s.csrRead .mtvt).1 = 0 ∧
      (s.csrRead .mcause).1 = 0x30000000 ∧ (s.csrRead .mintstatus).1 = 0 ∧ (s.csrRead .mhcr).1 = 0 ∧
      (∀ k, (s.csrRead (.pmpcfg k)).1 = 0) ∧ s.mcycle = 0 ∧ s.minstret = 0 ∧
      (s.csrRead .mcpuid).1 = c.mcpuidFirst ∧ s.csr.theadisaee = false ∧
      s.csr.ex.softRst = 0 ∧ s.csr.ex.lpmd = 0 ∧ s.csr.ex.wfe = true ∧ s.csr.ex.exptVld = false ∧
      s.csr.ex.lockup = false ∧ s.sleeping = false ∧ s.nmiPending = false ∧ s.lockupNmi = false) ∧
    (c.layout = .reference → (s.csrRead .mstatus).1 = 0x00001800 ∧ (s.csrRead .mxstatus).1 = 0xC0000000 ∧
      (s.csrRead .mexstatus).1 = 0x00000010) ∧
    (s.tcipRead 0xE0000000 .word = some 0 ∧ s.tcipRead 0xE0004000 .word = some 0xFFFFFFFF ∧
      s.tcipRead 0xE0004004 .word = some 0xFFFFFFFF ∧ s.tcipRead 0xE0800000 .word = some 1 ∧
      s.tcipRead 0xE0800008 .word = some 0) ∧
    ((∀ id ∈ sourceIds c, s.tcipRead (0xE0801000 + 4 * BitVec.ofNat 32 id) .word =
        some ((0xFF#8 >>> c.ctlBits.toNat) ++ 0xC0#8 ++ 0#16)) ∧
      s.sample.interruptToTake = none ∧ ∀ x ∈ s.clic.sources, x.prev = s.sourceSignal x.id)) ∧
  ∀ (s : State) (n : BitVec 64), s.hostEvent (.reset n) = .ok { State.resetWith s.cfg with
    mem := s.mem
    inputs := { s.inputs with sysCnt := n }
    had := s.had
    schedule := s.schedule
    stale := s.stale
    draws := s.draws }

/-! ### The debug unit (60 R435, R503, R504) -/

/-- 60 R435: leaving debug mode. R500: the debugger replaces the state, locked PMP entries, MINTSTATUS and MEXSTATUS included
(log 23). R504: a DDMA write stores the written value at DATR, a DDMA read gives DARWR the memory value; in increase mode DATR
moves by the size; a read sets DATA PHASE in single mode, and with DATA PHASE set reading DARWR only clears it (word transfers
of memory); DDAE is bit 29 of HCR, TRANS MODE and SIZE are bits 2:0 and 6:4 of DACSR, the other positions those of the
reference layout (log 24). -/
def Obligations.DebugUnitEvents : Prop :=
  ∀ (s : State),
    (∀ r : Word, s.debugMode = true →
      (s.csr.ex.lockup = true → r ≠ 0xEFFFFFFC → s.hostEvent (.debugExit r) = .ok { s with
        debugMode := false
        pc := r &&& 0xFFFFFFFE
        lockupNmi := false
        csr := { s.csr with ex := { s.csr.ex with lockup := false, exptVld := false } } }) ∧
      (s.csr.ex.lockup = true → r = 0xEFFFFFFC → s.hostEvent (.debugExit r) = .ok { s with debugMode := false }) ∧
      (s.csr.ex.lockup = false →
        s.hostEvent (.debugExit r) = .ok { s with debugMode := false, pc := r &&& 0xFFFFFFFE })) ∧
    (∀ (m : Snapshot) (u : State), s.debugMode = true →
      u = { s with
        regs := m.regs, pc := m.pc, priv := m.priv, csr := m.csr, mcycle := m.mcycle, minstret := m.minstret
        mcpuidNext := m.mcpuidNext, pmp := m.pmp, clint := m.clint, clic := m.clic, icache := m.icache, stale := m.stale
        sleeping := m.sleeping, nmiPending := m.nmiPending, lockupNmi := m.lockupNmi } →
      s.Inv → u.Inv → m.mem = [] →
      ∃ t, s.hostEvent (.debugReplace m) = .ok t ∧ t = { u with regs := t.regs } ∧ ∀ r, t.reg r = u.reg r) ∧
    (∀ (m : Snapshot) (a : Word) (v : Byte), s.debugMode = true → m.mem = [(a, v)] → inTcip a = false →
      ∃ t, s.hostEvent (.debugReplace m) = .ok t ∧ t.byteAt a = v ∧ ∀ b, b ≠ a → t.byteAt b = s.byteAt b) ∧
    (∀ v : Word, s.had.ddae = true → s.had.transSize = 2 → s.had.transMode ≤ 1 → inTcip s.had.datr = false →
      s.busError s.had.datr .word .store = false →
      ∃ t, s.hostEvent (.hadWriteDarwr v) = .ok t ∧
        t = { s with
          mem := t.mem
          had := { s.had with
            error := false
            datr := if s.had.transMode = 1 then s.had.datr + 4 else s.had.datr } } ∧
        t.wordAt s.had.datr = v ∧
        ∀ a, (∀ k, k < 4 → a ≠ s.had.datr + BitVec.ofNat 32 k) → t.byteAt a = s.byteAt a) ∧
    (s.had.dataPhase = true → s.hostEvent .hadReadDarwr = .ok { s with had := { s.had with dataPhase := false } }) ∧
    (s.had.ddae = true → s.had.dataPhase = false → s.had.transSize = 2 → s.had.transMode ≤ 1 →
      inTcip s.had.datr = false → s.busError s.had.datr .word (if s.had.transProt.getLsbD 0 then .load else .fetch) = false →
      s.hostEvent .hadReadDarwr = .ok { s with had := { s.had with
        error := false
        datr := if s.had.transMode = 1 then s.had.datr + 4 else s.had.datr
        data := s.wordAt s.had.datr
        dataPhase := decide (s.had.transMode = 0) } }) ∧
    (∀ v : Word, s.hostEvent (.hadHcr v) = .ok { s with had := { s.had with ddae := v.getLsbD 29 } } ∧
      s.hostEvent (.hadDatr v) = .ok { s with had := { s.had with datr := v } } ∧
      (s.cfg.layout = .reference → ∃ t, s.hostEvent (.hadDacsr v) = .ok t ∧ t = { s with had := t.had } ∧
        t.had.dacsrWord t.cfg.layout = (v &&& 0x00040B77) ||| (s.had.dacsrWord s.cfg.layout &&& 0x00020000) ∧
        t.had.transMode = v.extractLsb' 0 3 ∧ t.had.transSize = v.extractLsb' 4 3))

end
end

