-- ==== Sys2Proof/Laws/Encode.lean ====
section
/-! SUPPORT. The laws of fields: what each field of an assembled code is, and that a code is what its fields assemble to,
format by format (30 R182 to R190, R195). Both come from one reading of `++` and of a field as numbers. -/

namespace Sys2Proof

/-- Appending bit vectors as arithmetic on numbers. -/
theorem append_toNat {n m : Nat} (a : BitVec n) (b : BitVec m) : (a ++ b).toNat = a.toNat * 2 ^ m + b.toNat := by
  rw [BitVec.toNat_append, ← Nat.shiftLeft_add_eq_or_of_lt b.isLt, Nat.shiftLeft_eq]

/-- A field as arithmetic on numbers. -/
theorem extract_toNat {n : Nat} (x : BitVec n) (s len : Nat) :
    (x.extractLsb' s len).toNat = x.toNat / 2 ^ s % 2 ^ len := by
  rw [BitVec.extractLsb'_toNat, Nat.shiftRight_eq_div_pow]

/-- The two low bits of an assembled word are those of its lowest part. -/
theorem low_of_word {n m : Nat} (a : BitVec n) (b : BitVec m) (hm : 2 ≤ m) :
    (a ++ b).extractLsb' 0 2 = b.extractLsb' 0 2 := by
  apply BitVec.eq_of_toNat_eq
  obtain ⟨k, rfl⟩ := Nat.exists_eq_add_of_le hm
  rw [extract_toNat, extract_toNat, append_toNat]
  simp only [Nat.pow_add, pow_zero, Nat.div_one]
  rw [show a.toNat * (2 ^ 2 * 2 ^ k) = 2 ^ 2 * (a.toNat * 2 ^ k) by ring, Nat.mul_add_mod]

/-! ### Register fields -/

@[simp] theorem reg?_regBits (r : Reg) : reg? (regBits r) = some r := by
  revert r; decide

@[simp] theorem cReg_cRegBits (r : CReg) : cReg (cRegBits r) = r := by
  revert r; decide

/-- A field that names a register is that register's field. -/
theorem regBits_of_reg? {f : BitVec 5} {r : Reg} (h : reg? f = some r) : regBits r = f := by
  revert f r; decide

@[simp] theorem cRegBits_cReg (f : BitVec 3) : cRegBits (cReg f) = f := by
  revert f; decide

/-- A field names no register exactly when its top bit is set (30 R193). -/
theorem reg?_eq_none {f : BitVec 5} : reg? f = none ↔ f.getLsbD 4 = true := by
  revert f; decide

/-! ### Words from fields -/

theorem fields_r (f7 : BitVec 7) (r2 r1 : BitVec 5) (f3 : BitVec 3) (rd : BitVec 5) (op : BitVec 7) :
    let w : Word := f7 ++ r2 ++ r1 ++ f3 ++ rd ++ op
    opcodeField w = op ∧ rdField w = rd ∧ funct3Field w = f3 ∧ rs1Field w = r1 ∧ rs2Field w = r2 ∧ funct7Field w = f7 := by
  dsimp only
  refine ⟨?_, ?_, ?_, ?_, ?_, ?_⟩ <;> apply BitVec.eq_of_toNat_eq <;>
  simp only [opcodeField, rdField, funct3Field, rs1Field, rs2Field, funct7Field, extract_toNat] <;>
  (repeat rw [append_toNat]) <;>
  have h1 := f7.isLt <;> have h2 := r2.isLt <;> have h3 := r1.isLt <;> have h4 := f3.isLt <;> have h5 := rd.isLt <;>
  have h6 := op.isLt <;> omega

theorem fields_i (imm : BitVec 12) (r1 : BitVec 5) (f3 : BitVec 3) (rd : BitVec 5) (op : BitVec 7) :
    let w : Word := imm ++ r1 ++ f3 ++ rd ++ op
    opcodeField w = op ∧ rdField w = rd ∧ funct3Field w = f3 ∧ rs1Field w = r1 ∧ immI w = imm := by
  dsimp only
  refine ⟨?_, ?_, ?_, ?_, ?_⟩ <;> apply BitVec.eq_of_toNat_eq <;>
  simp only [opcodeField, rdField, funct3Field, rs1Field, immI, extract_toNat] <;>
  (repeat rw [append_toNat]) <;>
  have h1 := imm.isLt <;> have h3 := r1.isLt <;> have h4 := f3.isLt <;> have h5 := rd.isLt <;>
  have h6 := op.isLt <;> omega

theorem fields_u (imm : BitVec 20) (rd : BitVec 5) (op : BitVec 7) :
    let w : Word := imm ++ rd ++ op
    opcodeField w = op ∧ rdField w = rd ∧ immU w = imm := by
  dsimp only
  refine ⟨?_, ?_, ?_⟩ <;> apply BitVec.eq_of_toNat_eq <;> simp only [opcodeField, rdField, immU, extract_toNat] <;>
  (repeat rw [append_toNat]) <;> have h1 := imm.isLt <;> have h5 := rd.isLt <;> have h6 := op.isLt <;> omega

theorem fields_s (imm : BitVec 12) (r2 r1 : BitVec 5) (f3 : BitVec 3) (op : BitVec 7) :
    let w : Word := imm.extractLsb' 5 7 ++ r2 ++ r1 ++ f3 ++ imm.extractLsb' 0 5 ++ op
    opcodeField w = op ∧ funct3Field w = f3 ∧ rs1Field w = r1 ∧ rs2Field w = r2 ∧ immS w = imm := by
  dsimp only
  obtain ⟨h1, h2, h3, h4, h5, h6⟩ := fields_r (imm.extractLsb' 5 7) r2 r1 f3 (imm.extractLsb' 0 5) op
  refine ⟨h1, h3, h4, h5, ?_⟩
  rw [immS, show BitVec.extractLsb' 25 7 _ = imm.extractLsb' 5 7 from h6, show BitVec.extractLsb' 7 5 _ = imm.extractLsb' 0 5 from h2]
  apply BitVec.eq_of_toNat_eq
  rw [append_toNat, extract_toNat, extract_toNat]
  have := imm.isLt
  omega

/-! ### Fields of a word -/

theorem word_of_r (w : Word) :
    (funct7Field w ++ rs2Field w ++ rs1Field w ++ funct3Field w ++ rdField w ++ opcodeField w : Word) = w := by
  apply BitVec.eq_of_toNat_eq
  repeat rw [append_toNat]
  simp only [funct7Field, rs2Field, rs1Field, funct3Field, rdField, opcodeField, extract_toNat]
  have := w.isLt
  omega

theorem word_of_i (w : Word) : (immI w ++ rs1Field w ++ funct3Field w ++ rdField w ++ opcodeField w : Word) = w := by
  apply BitVec.eq_of_toNat_eq
  repeat rw [append_toNat]
  simp only [immI, rs1Field, funct3Field, rdField, opcodeField, extract_toNat]
  have := w.isLt
  omega

theorem word_of_u (w : Word) : (immU w ++ rdField w ++ opcodeField w : Word) = w := by
  apply BitVec.eq_of_toNat_eq
  repeat rw [append_toNat]
  simp only [immU, rdField, opcodeField, extract_toNat]
  have := w.isLt
  omega

/-! ### The scattered immediates: what each piece of an assembled immediate is -/

/-- A field inside the low part of an appended vector. -/
theorem extract_append_low {n m : Nat} (a : BitVec n) (b : BitVec m) (s len : Nat) (h : s + len ≤ m) :
    (a ++ b).extractLsb' s len = b.extractLsb' s len := by
  ext i hi
  simp [BitVec.getLsbD_append, show s + i < m by omega]

/-- A field inside the high part of an appended vector. -/
theorem extract_append_high {n m : Nat} (a : BitVec n) (b : BitVec m) (s len : Nat) (h : m ≤ s) :
    (a ++ b).extractLsb' s len = a.extractLsb' (s - m) len := by
  ext i hi
  simp [BitVec.getLsbD_append, show ¬ s + i < m by omega, show s + i - m = s - m + i by omega]

/-- The whole of a vector as a field of itself. -/
theorem extract_all {n : Nat} (a : BitVec n) : a.extractLsb' 0 n = a := by
  ext i hi; simp

end Sys2Proof
end

