-- ==== Sys2Proof/Laws/State.lean ====
section
/-! SUPPORT. One lemma for each field of each update of the state, so that no later proof unfolds a record update, and
the laws of reading and writing registers. -/

namespace Sys2Proof.Machine

/-! ### retire -/

@[simp] theorem State.retire_cfg (s : State) (pc : Word) : (s.retire pc).cfg = s.cfg := rfl
@[simp] theorem State.retire_regs (s : State) (pc : Word) : (s.retire pc).regs = s.regs := rfl
@[simp] theorem State.retire_pc (s : State) (pc : Word) : (s.retire pc).pc = pc := rfl
@[simp] theorem State.retire_priv (s : State) (pc : Word) : (s.retire pc).priv = s.priv := rfl
@[simp] theorem State.retire_csr (s : State) (pc : Word) : (s.retire pc).csr = s.csr := rfl
@[simp] theorem State.retire_mcycle (s : State) (pc : Word) : (s.retire pc).mcycle = s.mcycle := rfl
@[simp] theorem State.retire_minstret (s : State) (pc : Word) : (s.retire pc).minstret = s.minstret + 1 := rfl
@[simp] theorem State.retire_mcpuidNext (s : State) (pc : Word) : (s.retire pc).mcpuidNext = s.mcpuidNext := rfl
@[simp] theorem State.retire_pmp (s : State) (pc : Word) : (s.retire pc).pmp = s.pmp := rfl
@[simp] theorem State.retire_clint (s : State) (pc : Word) : (s.retire pc).clint = s.clint := rfl
@[simp] theorem State.retire_clic (s : State) (pc : Word) : (s.retire pc).clic = s.clic := rfl
@[simp] theorem State.retire_icache (s : State) (pc : Word) : (s.retire pc).icache = s.icache := rfl
@[simp] theorem State.retire_stale (s : State) (pc : Word) : (s.retire pc).stale = s.stale := rfl
@[simp] theorem State.retire_sleeping (s : State) (pc : Word) : (s.retire pc).sleeping = s.sleeping := rfl
@[simp] theorem State.retire_nmiPending (s : State) (pc : Word) : (s.retire pc).nmiPending = s.nmiPending := rfl
@[simp] theorem State.retire_lockupNmi (s : State) (pc : Word) : (s.retire pc).lockupNmi = s.lockupNmi := rfl
@[simp] theorem State.retire_debugMode (s : State) (pc : Word) : (s.retire pc).debugMode = s.debugMode := rfl
@[simp] theorem State.retire_sinceReset (s : State) (pc : Word) : (s.retire pc).sinceReset = s.sinceReset := rfl
@[simp] theorem State.retire_had (s : State) (pc : Word) : (s.retire pc).had = s.had := rfl
@[simp] theorem State.retire_mem (s : State) (pc : Word) : (s.retire pc).mem = s.mem := rfl
@[simp] theorem State.retire_inputs (s : State) (pc : Word) : (s.retire pc).inputs = s.inputs := rfl
@[simp] theorem State.retire_schedule (s : State) (pc : Word) : (s.retire pc).schedule = s.schedule := rfl
@[simp] theorem State.retire_draws (s : State) (pc : Word) : (s.retire pc).draws = s.draws := rfl

/-! ### advance -/

@[simp] theorem State.advance_cfg (s : State) (n : Word) : (s.advance n).cfg = s.cfg := rfl
@[simp] theorem State.advance_regs (s : State) (n : Word) : (s.advance n).regs = s.regs := rfl
@[simp] theorem State.advance_pc (s : State) (n : Word) : (s.advance n).pc = s.pc + n := rfl
@[simp] theorem State.advance_priv (s : State) (n : Word) : (s.advance n).priv = s.priv := rfl
@[simp] theorem State.advance_csr (s : State) (n : Word) : (s.advance n).csr = s.csr := rfl
@[simp] theorem State.advance_mcycle (s : State) (n : Word) : (s.advance n).mcycle = s.mcycle := rfl
@[simp] theorem State.advance_minstret (s : State) (n : Word) : (s.advance n).minstret = s.minstret + 1 := rfl
@[simp] theorem State.advance_mcpuidNext (s : State) (n : Word) : (s.advance n).mcpuidNext = s.mcpuidNext := rfl
@[simp] theorem State.advance_pmp (s : State) (n : Word) : (s.advance n).pmp = s.pmp := rfl
@[simp] theorem State.advance_clint (s : State) (n : Word) : (s.advance n).clint = s.clint := rfl
@[simp] theorem State.advance_clic (s : State) (n : Word) : (s.advance n).clic = s.clic := rfl
@[simp] theorem State.advance_icache (s : State) (n : Word) : (s.advance n).icache = s.icache := rfl
@[simp] theorem State.advance_stale (s : State) (n : Word) : (s.advance n).stale = s.stale := rfl
@[simp] theorem State.advance_sleeping (s : State) (n : Word) : (s.advance n).sleeping = s.sleeping := rfl
@[simp] theorem State.advance_nmiPending (s : State) (n : Word) : (s.advance n).nmiPending = s.nmiPending := rfl
@[simp] theorem State.advance_lockupNmi (s : State) (n : Word) : (s.advance n).lockupNmi = s.lockupNmi := rfl
@[simp] theorem State.advance_debugMode (s : State) (n : Word) : (s.advance n).debugMode = s.debugMode := rfl
@[simp] theorem State.advance_sinceReset (s : State) (n : Word) : (s.advance n).sinceReset = s.sinceReset := rfl
@[simp] theorem State.advance_had (s : State) (n : Word) : (s.advance n).had = s.had := rfl
@[simp] theorem State.advance_mem (s : State) (n : Word) : (s.advance n).mem = s.mem := rfl
@[simp] theorem State.advance_inputs (s : State) (n : Word) : (s.advance n).inputs = s.inputs := rfl
@[simp] theorem State.advance_schedule (s : State) (n : Word) : (s.advance n).schedule = s.schedule := rfl
@[simp] theorem State.advance_draws (s : State) (n : Word) : (s.advance n).draws = s.draws := rfl

/-! ### drawn -/

@[simp] theorem State.drawn_cfg (s : State) : (s.drawn).cfg = s.cfg := rfl
@[simp] theorem State.drawn_regs (s : State) : (s.drawn).regs = s.regs := rfl
@[simp] theorem State.drawn_pc (s : State) : (s.drawn).pc = s.pc := rfl
@[simp] theorem State.drawn_priv (s : State) : (s.drawn).priv = s.priv := rfl
@[simp] theorem State.drawn_csr (s : State) : (s.drawn).csr = s.csr := rfl
@[simp] theorem State.drawn_mcycle (s : State) : (s.drawn).mcycle = s.mcycle := rfl
@[simp] theorem State.drawn_minstret (s : State) : (s.drawn).minstret = s.minstret := rfl
@[simp] theorem State.drawn_mcpuidNext (s : State) : (s.drawn).mcpuidNext = s.mcpuidNext := rfl
@[simp] theorem State.drawn_pmp (s : State) : (s.drawn).pmp = s.pmp := rfl
@[simp] theorem State.drawn_clint (s : State) : (s.drawn).clint = s.clint := rfl
@[simp] theorem State.drawn_clic (s : State) : (s.drawn).clic = s.clic := rfl
@[simp] theorem State.drawn_icache (s : State) : (s.drawn).icache = s.icache := rfl
@[simp] theorem State.drawn_stale (s : State) : (s.drawn).stale = s.stale := rfl
@[simp] theorem State.drawn_sleeping (s : State) : (s.drawn).sleeping = s.sleeping := rfl
@[simp] theorem State.drawn_nmiPending (s : State) : (s.drawn).nmiPending = s.nmiPending := rfl
@[simp] theorem State.drawn_lockupNmi (s : State) : (s.drawn).lockupNmi = s.lockupNmi := rfl
@[simp] theorem State.drawn_debugMode (s : State) : (s.drawn).debugMode = s.debugMode := rfl
@[simp] theorem State.drawn_sinceReset (s : State) : (s.drawn).sinceReset = s.sinceReset := rfl
@[simp] theorem State.drawn_had (s : State) : (s.drawn).had = s.had := rfl
@[simp] theorem State.drawn_mem (s : State) : (s.drawn).mem = s.mem := rfl
@[simp] theorem State.drawn_inputs (s : State) : (s.drawn).inputs = s.inputs := rfl
@[simp] theorem State.drawn_schedule (s : State) : (s.drawn).schedule = s.schedule := rfl
@[simp] theorem State.drawn_draws (s : State) : (s.drawn).draws = s.draws + 1 := rfl

/-! ### readCycles -/

@[simp] theorem State.readCycles_cfg (s : State) : (s.readCycles).cfg = s.cfg := rfl
@[simp] theorem State.readCycles_regs (s : State) : (s.readCycles).regs = s.regs := rfl
@[simp] theorem State.readCycles_pc (s : State) : (s.readCycles).pc = s.pc := rfl
@[simp] theorem State.readCycles_priv (s : State) : (s.readCycles).priv = s.priv := rfl
@[simp] theorem State.readCycles_csr (s : State) : (s.readCycles).csr = s.csr := rfl
@[simp] theorem State.readCycles_mcycle (s : State) : (s.readCycles).mcycle = s.mcycle + Config.freeCycles s.draws := rfl
@[simp] theorem State.readCycles_minstret (s : State) : (s.readCycles).minstret = s.minstret := rfl
@[simp] theorem State.readCycles_mcpuidNext (s : State) : (s.readCycles).mcpuidNext = s.mcpuidNext := rfl
@[simp] theorem State.readCycles_pmp (s : State) : (s.readCycles).pmp = s.pmp := rfl
@[simp] theorem State.readCycles_clint (s : State) : (s.readCycles).clint = s.clint := rfl
@[simp] theorem State.readCycles_clic (s : State) : (s.readCycles).clic = s.clic := rfl
@[simp] theorem State.readCycles_icache (s : State) : (s.readCycles).icache = s.icache := rfl
@[simp] theorem State.readCycles_stale (s : State) : (s.readCycles).stale = s.stale := rfl
@[simp] theorem State.readCycles_sleeping (s : State) : (s.readCycles).sleeping = s.sleeping := rfl
@[simp] theorem State.readCycles_nmiPending (s : State) : (s.readCycles).nmiPending = s.nmiPending := rfl
@[simp] theorem State.readCycles_lockupNmi (s : State) : (s.readCycles).lockupNmi = s.lockupNmi := rfl
@[simp] theorem State.readCycles_debugMode (s : State) : (s.readCycles).debugMode = s.debugMode := rfl
@[simp] theorem State.readCycles_sinceReset (s : State) : (s.readCycles).sinceReset = s.sinceReset := rfl
@[simp] theorem State.readCycles_had (s : State) : (s.readCycles).had = s.had := rfl
@[simp] theorem State.readCycles_mem (s : State) : (s.readCycles).mem = s.mem := rfl
@[simp] theorem State.readCycles_inputs (s : State) : (s.readCycles).inputs = s.inputs := rfl
@[simp] theorem State.readCycles_schedule (s : State) : (s.readCycles).schedule = s.schedule := rfl
@[simp] theorem State.readCycles_draws (s : State) : (s.readCycles).draws = s.draws + 1 := rfl

/-! ### storeBytes -/

@[simp] theorem State.storeBytes_cfg (s : State) (a : Word) (size : AccessSize) (v : Word) : (s.storeBytes a size v).cfg = s.cfg := rfl
@[simp] theorem State.storeBytes_regs (s : State) (a : Word) (size : AccessSize) (v : Word) : (s.storeBytes a size v).regs = s.regs := rfl
@[simp] theorem State.storeBytes_pc (s : State) (a : Word) (size : AccessSize) (v : Word) : (s.storeBytes a size v).pc = s.pc := rfl
@[simp] theorem State.storeBytes_priv (s : State) (a : Word) (size : AccessSize) (v : Word) : (s.storeBytes a size v).priv = s.priv := rfl
@[simp] theorem State.storeBytes_csr (s : State) (a : Word) (size : AccessSize) (v : Word) : (s.storeBytes a size v).csr = s.csr := rfl
@[simp] theorem State.storeBytes_mcycle (s : State) (a : Word) (size : AccessSize) (v : Word) : (s.storeBytes a size v).mcycle = s.mcycle := rfl
@[simp] theorem State.storeBytes_minstret (s : State) (a : Word) (size : AccessSize) (v : Word) : (s.storeBytes a size v).minstret = s.minstret := rfl
@[simp] theorem State.storeBytes_mcpuidNext (s : State) (a : Word) (size : AccessSize) (v : Word) : (s.storeBytes a size v).mcpuidNext = s.mcpuidNext := rfl
@[simp] theorem State.storeBytes_pmp (s : State) (a : Word) (size : AccessSize) (v : Word) : (s.storeBytes a size v).pmp = s.pmp := rfl
@[simp] theorem State.storeBytes_clint (s : State) (a : Word) (size : AccessSize) (v : Word) : (s.storeBytes a size v).clint = s.clint := rfl
@[simp] theorem State.storeBytes_clic (s : State) (a : Word) (size : AccessSize) (v : Word) : (s.storeBytes a size v).clic = s.clic := rfl
@[simp] theorem State.storeBytes_icache (s : State) (a : Word) (size : AccessSize) (v : Word) : (s.storeBytes a size v).icache = s.icache := rfl
@[simp] theorem State.storeBytes_sleeping (s : State) (a : Word) (size : AccessSize) (v : Word) : (s.storeBytes a size v).sleeping = s.sleeping := rfl
@[simp] theorem State.storeBytes_nmiPending (s : State) (a : Word) (size : AccessSize) (v : Word) : (s.storeBytes a size v).nmiPending = s.nmiPending := rfl
@[simp] theorem State.storeBytes_lockupNmi (s : State) (a : Word) (size : AccessSize) (v : Word) : (s.storeBytes a size v).lockupNmi = s.lockupNmi := rfl
@[simp] theorem State.storeBytes_debugMode (s : State) (a : Word) (size : AccessSize) (v : Word) : (s.storeBytes a size v).debugMode = s.debugMode := rfl
@[simp] theorem State.storeBytes_sinceReset (s : State) (a : Word) (size : AccessSize) (v : Word) : (s.storeBytes a size v).sinceReset = s.sinceReset := rfl
@[simp] theorem State.storeBytes_had (s : State) (a : Word) (size : AccessSize) (v : Word) : (s.storeBytes a size v).had = s.had := rfl
@[simp] theorem State.storeBytes_mem (s : State) (a : Word) (size : AccessSize) (v : Word) : (s.storeBytes a size v).mem = Memory.writeLE s.mem a size.bytes v := rfl
@[simp] theorem State.storeBytes_inputs (s : State) (a : Word) (size : AccessSize) (v : Word) : (s.storeBytes a size v).inputs = s.inputs := rfl
@[simp] theorem State.storeBytes_schedule (s : State) (a : Word) (size : AccessSize) (v : Word) : (s.storeBytes a size v).schedule = s.schedule := rfl
@[simp] theorem State.storeBytes_draws (s : State) (a : Word) (size : AccessSize) (v : Word) : (s.storeBytes a size v).draws = s.draws := rfl

/-! ### lockUp -/

@[simp] theorem State.lockUp_cfg (s : State) : (s.lockUp).cfg = s.cfg := rfl
@[simp] theorem State.lockUp_regs (s : State) : (s.lockUp).regs = s.regs := rfl
@[simp] theorem State.lockUp_pc (s : State) : (s.lockUp).pc = s.pc := rfl
@[simp] theorem State.lockUp_priv (s : State) : (s.lockUp).priv = s.priv := rfl
@[simp] theorem State.lockUp_csr (s : State) : (s.lockUp).csr = { s.csr with ex := { s.csr.ex with lockup := true } } := rfl
@[simp] theorem State.lockUp_mcycle (s : State) : (s.lockUp).mcycle = s.mcycle := rfl
@[simp] theorem State.lockUp_minstret (s : State) : (s.lockUp).minstret = s.minstret := rfl
@[simp] theorem State.lockUp_mcpuidNext (s : State) : (s.lockUp).mcpuidNext = s.mcpuidNext := rfl
@[simp] theorem State.lockUp_pmp (s : State) : (s.lockUp).pmp = s.pmp := rfl
@[simp] theorem State.lockUp_clint (s : State) : (s.lockUp).clint = s.clint := rfl
@[simp] theorem State.lockUp_clic (s : State) : (s.lockUp).clic = s.clic := rfl
@[simp] theorem State.lockUp_icache (s : State) : (s.lockUp).icache = s.icache := rfl
@[simp] theorem State.lockUp_stale (s : State) : (s.lockUp).stale = s.stale := rfl
@[simp] theorem State.lockUp_sleeping (s : State) : (s.lockUp).sleeping = s.sleeping := rfl
@[simp] theorem State.lockUp_nmiPending (s : State) : (s.lockUp).nmiPending = s.nmiPending := rfl
@[simp] theorem State.lockUp_lockupNmi (s : State) : (s.lockUp).lockupNmi = false := rfl
@[simp] theorem State.lockUp_debugMode (s : State) : (s.lockUp).debugMode = s.debugMode := rfl
@[simp] theorem State.lockUp_sinceReset (s : State) : (s.lockUp).sinceReset = s.sinceReset := rfl
@[simp] theorem State.lockUp_had (s : State) : (s.lockUp).had = s.had := rfl
@[simp] theorem State.lockUp_mem (s : State) : (s.lockUp).mem = s.mem := rfl
@[simp] theorem State.lockUp_inputs (s : State) : (s.lockUp).inputs = s.inputs := rfl
@[simp] theorem State.lockUp_schedule (s : State) : (s.lockUp).schedule = s.schedule := rfl
@[simp] theorem State.lockUp_draws (s : State) : (s.lockUp).draws = s.draws := rfl

/-! ### enterException -/

@[simp] theorem State.enterException_cfg (s : State) (e : Exc) : (s.enterException e).cfg = s.cfg := rfl
@[simp] theorem State.enterException_regs (s : State) (e : Exc) : (s.enterException e).regs = s.regs := rfl
@[simp] theorem State.enterException_pc (s : State) (e : Exc) : (s.enterException e).pc = s.trapVector := rfl
@[simp] theorem State.enterException_priv (s : State) (e : Exc) : (s.enterException e).priv = .machine := rfl
@[simp] theorem State.enterException_mcycle (s : State) (e : Exc) : (s.enterException e).mcycle = s.mcycle := rfl
@[simp] theorem State.enterException_minstret (s : State) (e : Exc) : (s.enterException e).minstret = if s.cfg.minstretCountsTrapped then s.minstret + 1 else s.minstret := rfl
@[simp] theorem State.enterException_mcpuidNext (s : State) (e : Exc) : (s.enterException e).mcpuidNext = s.mcpuidNext := rfl
@[simp] theorem State.enterException_pmp (s : State) (e : Exc) : (s.enterException e).pmp = s.pmp := rfl
@[simp] theorem State.enterException_clint (s : State) (e : Exc) : (s.enterException e).clint = s.clint := rfl
@[simp] theorem State.enterException_clic (s : State) (e : Exc) : (s.enterException e).clic = s.clic := rfl
@[simp] theorem State.enterException_icache (s : State) (e : Exc) : (s.enterException e).icache = s.icache := rfl
@[simp] theorem State.enterException_stale (s : State) (e : Exc) : (s.enterException e).stale = s.stale := rfl
@[simp] theorem State.enterException_sleeping (s : State) (e : Exc) : (s.enterException e).sleeping = s.sleeping := rfl
@[simp] theorem State.enterException_nmiPending (s : State) (e : Exc) : (s.enterException e).nmiPending = s.nmiPending := rfl
@[simp] theorem State.enterException_lockupNmi (s : State) (e : Exc) : (s.enterException e).lockupNmi = s.lockupNmi := rfl
@[simp] theorem State.enterException_debugMode (s : State) (e : Exc) : (s.enterException e).debugMode = s.debugMode := rfl
@[simp] theorem State.enterException_sinceReset (s : State) (e : Exc) : (s.enterException e).sinceReset = s.sinceReset := rfl
@[simp] theorem State.enterException_had (s : State) (e : Exc) : (s.enterException e).had = s.had := rfl
@[simp] theorem State.enterException_mem (s : State) (e : Exc) : (s.enterException e).mem = s.mem := rfl
@[simp] theorem State.enterException_inputs (s : State) (e : Exc) : (s.enterException e).inputs = s.inputs := rfl
@[simp] theorem State.enterException_schedule (s : State) (e : Exc) : (s.enterException e).schedule = s.schedule := rfl
@[simp] theorem State.enterException_draws (s : State) (e : Exc) : (s.enterException e).draws = s.draws := rfl
@[simp] theorem State.enterException_csr_mepc (s : State) (e : Exc) :
    (s.enterException e).csr.mepc = s.pc := rfl
@[simp] theorem State.enterException_csr_mtval (s : State) (e : Exc) :
    (s.enterException e).csr.mtval = e.info := rfl
@[simp] theorem State.enterException_csr_mscratch (s : State) (e : Exc) :
    (s.enterException e).csr.mscratch = s.csr.mscratch := rfl
@[simp] theorem State.enterException_csr_mnmipc (s : State) (e : Exc) :
    (s.enterException e).csr.mnmipc = s.csr.mnmipc := rfl
@[simp] theorem State.enterException_csr_nmi (s : State) (e : Exc) :
    (s.enterException e).csr.nmi = s.csr.nmi := rfl
@[simp] theorem State.enterException_csr_mil (s : State) (e : Exc) :
    (s.enterException e).csr.mil = s.csr.mil := rfl
@[simp] theorem State.enterException_csr_mtvecBase (s : State) (e : Exc) :
    (s.enterException e).csr.mtvecBase = s.csr.mtvecBase := rfl
@[simp] theorem State.enterException_csr_mtvt (s : State) (e : Exc) :
    (s.enterException e).csr.mtvt = s.csr.mtvt := rfl
@[simp] theorem State.enterException_csr_icacheEnable (s : State) (e : Exc) :
    (s.enterException e).csr.icacheEnable = s.csr.icacheEnable := rfl
@[simp] theorem State.enterException_csr_theadisaee (s : State) (e : Exc) :
    (s.enterException e).csr.theadisaee = s.csr.theadisaee := rfl
@[simp] theorem State.enterException_csr_cause (s : State) (e : Exc) :
    (s.enterException e).csr.cause = { s.csr.cause with code := e.code, interrupt := false } := rfl
@[simp] theorem State.enterException_csr_status (s : State) (e : Exc) :
    (s.enterException e).csr.status = { s.csr.status with mpie := s.csr.status.mie, mie := false, mpp := s.priv } := rfl
@[simp] theorem State.enterException_csr_ex (s : State) (e : Exc) :
    (s.enterException e).csr.ex = { s.csr.ex with exptVld := if !e.selfInflicted || s.cfg.ecallSetsExptVld then true else s.csr.ex.exptVld } := rfl

/-! ### trapReturn -/

@[simp] theorem State.trapReturn_cfg (s : State) : (s.trapReturn).cfg = s.cfg := rfl
@[simp] theorem State.trapReturn_regs (s : State) : (s.trapReturn).regs = s.regs := rfl
@[simp] theorem State.trapReturn_pc (s : State) : (s.trapReturn).pc = s.csr.mepc := rfl
@[simp] theorem State.trapReturn_priv (s : State) : (s.trapReturn).priv = s.csr.status.mpp := rfl
@[simp] theorem State.trapReturn_mcycle (s : State) : (s.trapReturn).mcycle = s.mcycle := rfl
@[simp] theorem State.trapReturn_minstret (s : State) : (s.trapReturn).minstret = s.minstret + 1 := rfl
@[simp] theorem State.trapReturn_mcpuidNext (s : State) : (s.trapReturn).mcpuidNext = s.mcpuidNext := rfl
@[simp] theorem State.trapReturn_pmp (s : State) : (s.trapReturn).pmp = s.pmp := rfl
@[simp] theorem State.trapReturn_clint (s : State) : (s.trapReturn).clint = s.clint := rfl
@[simp] theorem State.trapReturn_clic (s : State) : (s.trapReturn).clic = s.clic := rfl
@[simp] theorem State.trapReturn_icache (s : State) : (s.trapReturn).icache = s.icache := rfl
@[simp] theorem State.trapReturn_stale (s : State) : (s.trapReturn).stale = s.stale := rfl
@[simp] theorem State.trapReturn_sleeping (s : State) : (s.trapReturn).sleeping = s.sleeping := rfl
@[simp] theorem State.trapReturn_nmiPending (s : State) : (s.trapReturn).nmiPending = s.nmiPending := rfl
@[simp] theorem State.trapReturn_lockupNmi (s : State) : (s.trapReturn).lockupNmi = s.lockupNmi := rfl
@[simp] theorem State.trapReturn_debugMode (s : State) : (s.trapReturn).debugMode = s.debugMode := rfl
@[simp] theorem State.trapReturn_sinceReset (s : State) : (s.trapReturn).sinceReset = s.sinceReset := rfl
@[simp] theorem State.trapReturn_had (s : State) : (s.trapReturn).had = s.had := rfl
@[simp] theorem State.trapReturn_mem (s : State) : (s.trapReturn).mem = s.mem := rfl
@[simp] theorem State.trapReturn_inputs (s : State) : (s.trapReturn).inputs = s.inputs := rfl
@[simp] theorem State.trapReturn_schedule (s : State) : (s.trapReturn).schedule = s.schedule := rfl
@[simp] theorem State.trapReturn_draws (s : State) : (s.trapReturn).draws = s.draws := rfl
@[simp] theorem State.trapReturn_csr_mepc (s : State) :
    (s.trapReturn).csr.mepc = s.csr.mepc := rfl
@[simp] theorem State.trapReturn_csr_mtval (s : State) :
    (s.trapReturn).csr.mtval = s.csr.mtval := rfl
@[simp] theorem State.trapReturn_csr_mscratch (s : State) :
    (s.trapReturn).csr.mscratch = s.csr.mscratch := rfl
@[simp] theorem State.trapReturn_csr_mnmipc (s : State) :
    (s.trapReturn).csr.mnmipc = s.csr.mnmipc := rfl
@[simp] theorem State.trapReturn_csr_nmi (s : State) :
    (s.trapReturn).csr.nmi = s.csr.nmi := rfl
@[simp] theorem State.trapReturn_csr_mil (s : State) :
    (s.trapReturn).csr.mil = s.csr.cause.mpil := rfl
@[simp] theorem State.trapReturn_csr_mtvecBase (s : State) :
    (s.trapReturn).csr.mtvecBase = s.csr.mtvecBase := rfl
@[simp] theorem State.trapReturn_csr_mtvt (s : State) :
    (s.trapReturn).csr.mtvt = s.csr.mtvt := rfl
@[simp] theorem State.trapReturn_csr_cause (s : State) :
    (s.trapReturn).csr.cause = s.csr.cause := rfl
@[simp] theorem State.trapReturn_csr_status (s : State) :
    (s.trapReturn).csr.status = { s.csr.status with mie := s.csr.status.mpie, mpie := true, mpp := mppAfterReturn s.cfg } := rfl
@[simp] theorem State.trapReturn_csr_ex (s : State) :
    (s.trapReturn).csr.ex = { s.csr.ex with exptVld := false } := rfl

/-! ### nmiReturn -/

@[simp] theorem State.nmiReturn_cfg (s : State) : (s.nmiReturn).cfg = s.cfg := rfl
@[simp] theorem State.nmiReturn_regs (s : State) : (s.nmiReturn).regs = s.regs := rfl
@[simp] theorem State.nmiReturn_pc (s : State) : (s.nmiReturn).pc = s.csr.mepc := rfl
@[simp] theorem State.nmiReturn_priv (s : State) : (s.nmiReturn).priv = s.csr.status.mpp := rfl
@[simp] theorem State.nmiReturn_mcycle (s : State) : (s.nmiReturn).mcycle = s.mcycle := rfl
@[simp] theorem State.nmiReturn_minstret (s : State) : (s.nmiReturn).minstret = s.minstret + 1 := rfl
@[simp] theorem State.nmiReturn_mcpuidNext (s : State) : (s.nmiReturn).mcpuidNext = s.mcpuidNext := rfl
@[simp] theorem State.nmiReturn_pmp (s : State) : (s.nmiReturn).pmp = s.pmp := rfl
@[simp] theorem State.nmiReturn_clint (s : State) : (s.nmiReturn).clint = s.clint := rfl
@[simp] theorem State.nmiReturn_clic (s : State) : (s.nmiReturn).clic = s.clic := rfl
@[simp] theorem State.nmiReturn_icache (s : State) : (s.nmiReturn).icache = s.icache := rfl
@[simp] theorem State.nmiReturn_stale (s : State) : (s.nmiReturn).stale = s.stale := rfl
@[simp] theorem State.nmiReturn_sleeping (s : State) : (s.nmiReturn).sleeping = s.sleeping := rfl
@[simp] theorem State.nmiReturn_nmiPending (s : State) : (s.nmiReturn).nmiPending = s.nmiPending := rfl
@[simp] theorem State.nmiReturn_lockupNmi (s : State) : (s.nmiReturn).lockupNmi = false := rfl
@[simp] theorem State.nmiReturn_debugMode (s : State) : (s.nmiReturn).debugMode = s.debugMode := rfl
@[simp] theorem State.nmiReturn_sinceReset (s : State) : (s.nmiReturn).sinceReset = s.sinceReset := rfl
@[simp] theorem State.nmiReturn_had (s : State) : (s.nmiReturn).had = s.had := rfl
@[simp] theorem State.nmiReturn_mem (s : State) : (s.nmiReturn).mem = s.mem := rfl
@[simp] theorem State.nmiReturn_inputs (s : State) : (s.nmiReturn).inputs = s.inputs := rfl
@[simp] theorem State.nmiReturn_schedule (s : State) : (s.nmiReturn).schedule = s.schedule := rfl
@[simp] theorem State.nmiReturn_draws (s : State) : (s.nmiReturn).draws = if s.mppDraws s.csr.nmi.mpp then s.draws + 1 else s.draws := rfl
@[simp] theorem State.nmiReturn_csr_mepc (s : State) :
    (s.nmiReturn).csr.mepc = s.csr.mnmipc := rfl
@[simp] theorem State.nmiReturn_csr_mtval (s : State) :
    (s.nmiReturn).csr.mtval = s.csr.mtval := rfl
@[simp] theorem State.nmiReturn_csr_mscratch (s : State) :
    (s.nmiReturn).csr.mscratch = s.csr.mscratch := rfl
@[simp] theorem State.nmiReturn_csr_mnmipc (s : State) :
    (s.nmiReturn).csr.mnmipc = s.csr.mnmipc := rfl
@[simp] theorem State.nmiReturn_csr_nmi (s : State) :
    (s.nmiReturn).csr.nmi = { s.csr.nmi with mpp := (mppAfterReturn s.cfg).bits } := rfl
@[simp] theorem State.nmiReturn_csr_mil (s : State) :
    (s.nmiReturn).csr.mil = s.csr.mil := rfl
@[simp] theorem State.nmiReturn_csr_mtvecBase (s : State) :
    (s.nmiReturn).csr.mtvecBase = s.csr.mtvecBase := rfl
@[simp] theorem State.nmiReturn_csr_mtvt (s : State) :
    (s.nmiReturn).csr.mtvt = s.csr.mtvt := rfl
@[simp] theorem State.nmiReturn_csr_ex (s : State) :
    (s.nmiReturn).csr.ex = s.csr.ex := rfl
@[simp] theorem State.nmiReturn_csr_cause (s : State) :
    (s.nmiReturn).csr.cause = { s.csr.cause with code := s.csr.nmi.vector, interrupt := s.csr.nmi.intr } := rfl

/-! ### nmiEntry -/

@[simp] theorem State.nmiEntry_cfg (s : State) : (s.nmiEntry).cfg = s.cfg := rfl
@[simp] theorem State.nmiEntry_regs (s : State) : (s.nmiEntry).regs = s.regs := rfl
@[simp] theorem State.nmiEntry_pc (s : State) : (s.nmiEntry).pc = s.trapVector := rfl
@[simp] theorem State.nmiEntry_priv (s : State) : (s.nmiEntry).priv = .machine := rfl
@[simp] theorem State.nmiEntry_mcycle (s : State) : (s.nmiEntry).mcycle = s.mcycle := rfl
@[simp] theorem State.nmiEntry_minstret (s : State) : (s.nmiEntry).minstret = s.minstret := rfl
@[simp] theorem State.nmiEntry_mcpuidNext (s : State) : (s.nmiEntry).mcpuidNext = s.mcpuidNext := rfl
@[simp] theorem State.nmiEntry_pmp (s : State) : (s.nmiEntry).pmp = s.pmp := rfl
@[simp] theorem State.nmiEntry_clint (s : State) : (s.nmiEntry).clint = s.clint := rfl
@[simp] theorem State.nmiEntry_clic (s : State) : (s.nmiEntry).clic = s.clic := rfl
@[simp] theorem State.nmiEntry_icache (s : State) : (s.nmiEntry).icache = s.icache := rfl
@[simp] theorem State.nmiEntry_stale (s : State) : (s.nmiEntry).stale = s.stale := rfl
@[simp] theorem State.nmiEntry_sleeping (s : State) : (s.nmiEntry).sleeping = s.sleeping := rfl
@[simp] theorem State.nmiEntry_nmiPending (s : State) : (s.nmiEntry).nmiPending = false := rfl
@[simp] theorem State.nmiEntry_lockupNmi (s : State) : (s.nmiEntry).lockupNmi = s.lockupNmi := rfl
@[simp] theorem State.nmiEntry_debugMode (s : State) : (s.nmiEntry).debugMode = s.debugMode := rfl
@[simp] theorem State.nmiEntry_sinceReset (s : State) : (s.nmiEntry).sinceReset = s.sinceReset := rfl
@[simp] theorem State.nmiEntry_had (s : State) : (s.nmiEntry).had = s.had := rfl
@[simp] theorem State.nmiEntry_mem (s : State) : (s.nmiEntry).mem = s.mem := rfl
@[simp] theorem State.nmiEntry_inputs (s : State) : (s.nmiEntry).inputs = s.inputs := rfl
@[simp] theorem State.nmiEntry_schedule (s : State) : (s.nmiEntry).schedule = s.schedule := rfl
@[simp] theorem State.nmiEntry_draws (s : State) : (s.nmiEntry).draws = s.draws := rfl
@[simp] theorem State.nmiEntry_csr_mepc (s : State) :
    (s.nmiEntry).csr.mepc = s.pc := rfl
@[simp] theorem State.nmiEntry_csr_mnmipc (s : State) :
    (s.nmiEntry).csr.mnmipc = s.csr.mepc := rfl
@[simp] theorem State.nmiEntry_csr_mtval (s : State) :
    (s.nmiEntry).csr.mtval = s.csr.mtval := rfl
@[simp] theorem State.nmiEntry_csr_mscratch (s : State) :
    (s.nmiEntry).csr.mscratch = s.csr.mscratch := rfl
@[simp] theorem State.nmiEntry_csr_mil (s : State) :
    (s.nmiEntry).csr.mil = s.csr.mil := rfl
@[simp] theorem State.nmiEntry_csr_mtvecBase (s : State) :
    (s.nmiEntry).csr.mtvecBase = s.csr.mtvecBase := rfl
@[simp] theorem State.nmiEntry_csr_mtvt (s : State) :
    (s.nmiEntry).csr.mtvt = s.csr.mtvt := rfl
@[simp] theorem State.nmiEntry_csr_ex (s : State) :
    (s.nmiEntry).csr.ex = s.csr.ex := rfl
@[simp] theorem State.nmiEntry_csr_cause (s : State) :
    (s.nmiEntry).csr.cause = { s.csr.cause with code := 24, interrupt := false } := rfl

/-! ### enterInterrupt -/

@[simp] theorem State.enterInterrupt_cfg (s : State) (x : ClicSource) : (s.enterInterrupt x).cfg = s.cfg := rfl
@[simp] theorem State.enterInterrupt_regs (s : State) (x : ClicSource) : (s.enterInterrupt x).regs = s.regs := rfl
@[simp] theorem State.enterInterrupt_pc (s : State) (x : ClicSource) : (s.enterInterrupt x).pc = s.pc := rfl
@[simp] theorem State.enterInterrupt_priv (s : State) (x : ClicSource) : (s.enterInterrupt x).priv = .machine := rfl
@[simp] theorem State.enterInterrupt_mcycle (s : State) (x : ClicSource) : (s.enterInterrupt x).mcycle = s.mcycle := rfl
@[simp] theorem State.enterInterrupt_minstret (s : State) (x : ClicSource) : (s.enterInterrupt x).minstret = s.minstret := rfl
@[simp] theorem State.enterInterrupt_mcpuidNext (s : State) (x : ClicSource) : (s.enterInterrupt x).mcpuidNext = s.mcpuidNext := rfl
@[simp] theorem State.enterInterrupt_pmp (s : State) (x : ClicSource) : (s.enterInterrupt x).pmp = s.pmp := rfl
@[simp] theorem State.enterInterrupt_clint (s : State) (x : ClicSource) : (s.enterInterrupt x).clint = s.clint := rfl
@[simp] theorem State.enterInterrupt_clic (s : State) (x : ClicSource) : (s.enterInterrupt x).clic = s.clic := rfl
@[simp] theorem State.enterInterrupt_icache (s : State) (x : ClicSource) : (s.enterInterrupt x).icache = s.icache := rfl
@[simp] theorem State.enterInterrupt_stale (s : State) (x : ClicSource) : (s.enterInterrupt x).stale = s.stale := rfl
@[simp] theorem State.enterInterrupt_sleeping (s : State) (x : ClicSource) : (s.enterInterrupt x).sleeping = s.sleeping := rfl
@[simp] theorem State.enterInterrupt_nmiPending (s : State) (x : ClicSource) : (s.enterInterrupt x).nmiPending = s.nmiPending := rfl
@[simp] theorem State.enterInterrupt_lockupNmi (s : State) (x : ClicSource) : (s.enterInterrupt x).lockupNmi = s.lockupNmi := rfl
@[simp] theorem State.enterInterrupt_debugMode (s : State) (x : ClicSource) : (s.enterInterrupt x).debugMode = s.debugMode := rfl
@[simp] theorem State.enterInterrupt_sinceReset (s : State) (x : ClicSource) : (s.enterInterrupt x).sinceReset = s.sinceReset := rfl
@[simp] theorem State.enterInterrupt_had (s : State) (x : ClicSource) : (s.enterInterrupt x).had = s.had := rfl
@[simp] theorem State.enterInterrupt_mem (s : State) (x : ClicSource) : (s.enterInterrupt x).mem = s.mem := rfl
@[simp] theorem State.enterInterrupt_inputs (s : State) (x : ClicSource) : (s.enterInterrupt x).inputs = s.inputs := rfl
@[simp] theorem State.enterInterrupt_schedule (s : State) (x : ClicSource) : (s.enterInterrupt x).schedule = s.schedule := rfl
@[simp] theorem State.enterInterrupt_draws (s : State) (x : ClicSource) : (s.enterInterrupt x).draws = s.draws := rfl
@[simp] theorem State.enterInterrupt_csr_mepc (s : State) (x : ClicSource) :
    (s.enterInterrupt x).csr.mepc = s.pc := rfl
@[simp] theorem State.enterInterrupt_csr_mnmipc (s : State) (x : ClicSource) :
    (s.enterInterrupt x).csr.mnmipc = s.csr.mnmipc := rfl
@[simp] theorem State.enterInterrupt_csr_mtval (s : State) (x : ClicSource) :
    (s.enterInterrupt x).csr.mtval = s.csr.mtval := rfl
@[simp] theorem State.enterInterrupt_csr_mscratch (s : State) (x : ClicSource) :
    (s.enterInterrupt x).csr.mscratch = s.csr.mscratch := rfl
@[simp] theorem State.enterInterrupt_csr_mil (s : State) (x : ClicSource) :
    (s.enterInterrupt x).csr.mil = s.levelOf x := rfl
@[simp] theorem State.enterInterrupt_csr_mtvecBase (s : State) (x : ClicSource) :
    (s.enterInterrupt x).csr.mtvecBase = s.csr.mtvecBase := rfl
@[simp] theorem State.enterInterrupt_csr_mtvt (s : State) (x : ClicSource) :
    (s.enterInterrupt x).csr.mtvt = s.csr.mtvt := rfl
@[simp] theorem State.enterInterrupt_csr_ex (s : State) (x : ClicSource) :
    (s.enterInterrupt x).csr.ex = s.csr.ex := rfl
@[simp] theorem State.enterInterrupt_csr_nmi (s : State) (x : ClicSource) :
    (s.enterInterrupt x).csr.nmi = s.csr.nmi := rfl
@[simp] theorem State.enterInterrupt_csr_cause (s : State) (x : ClicSource) :
    (s.enterInterrupt x).csr.cause = { s.csr.cause with code := BitVec.ofNat 12 x.id, interrupt := true, mpil := s.csr.mil } := rfl
@[simp] theorem State.enterInterrupt_csr_status (s : State) (x : ClicSource) :
    (s.enterInterrupt x).csr.status = { s.csr.status with mpie := s.csr.status.mie, mie := false, mpp := s.priv } := rfl

/-! ### setSource -/

@[simp] theorem State.setSource_cfg (s : State) (id : Nat) (f : ClicSource → ClicSource) : (s.setSource id f).cfg = s.cfg := rfl
@[simp] theorem State.setSource_regs (s : State) (id : Nat) (f : ClicSource → ClicSource) : (s.setSource id f).regs = s.regs := rfl
@[simp] theorem State.setSource_pc (s : State) (id : Nat) (f : ClicSource → ClicSource) : (s.setSource id f).pc = s.pc := rfl
@[simp] theorem State.setSource_priv (s : State) (id : Nat) (f : ClicSource → ClicSource) : (s.setSource id f).priv = s.priv := rfl
@[simp] theorem State.setSource_csr (s : State) (id : Nat) (f : ClicSource → ClicSource) : (s.setSource id f).csr = s.csr := rfl
@[simp] theorem State.setSource_mcycle (s : State) (id : Nat) (f : ClicSource → ClicSource) : (s.setSource id f).mcycle = s.mcycle := rfl
@[simp] theorem State.setSource_minstret (s : State) (id : Nat) (f : ClicSource → ClicSource) : (s.setSource id f).minstret = s.minstret := rfl
@[simp] theorem State.setSource_mcpuidNext (s : State) (id : Nat) (f : ClicSource → ClicSource) : (s.setSource id f).mcpuidNext = s.mcpuidNext := rfl
@[simp] theorem State.setSource_pmp (s : State) (id : Nat) (f : ClicSource → ClicSource) : (s.setSource id f).pmp = s.pmp := rfl
@[simp] theorem State.setSource_clint (s : State) (id : Nat) (f : ClicSource → ClicSource) : (s.setSource id f).clint = s.clint := rfl
@[simp] theorem State.setSource_clic (s : State) (id : Nat) (f : ClicSource → ClicSource) : (s.setSource id f).clic = { s.clic with sources := s.clic.sources.map fun x => if x.id = id then f x else x } := rfl
@[simp] theorem State.setSource_icache (s : State) (id : Nat) (f : ClicSource → ClicSource) : (s.setSource id f).icache = s.icache := rfl
@[simp] theorem State.setSource_stale (s : State) (id : Nat) (f : ClicSource → ClicSource) : (s.setSource id f).stale = s.stale := rfl
@[simp] theorem State.setSource_sleeping (s : State) (id : Nat) (f : ClicSource → ClicSource) : (s.setSource id f).sleeping = s.sleeping := rfl
@[simp] theorem State.setSource_nmiPending (s : State) (id : Nat) (f : ClicSource → ClicSource) : (s.setSource id f).nmiPending = s.nmiPending := rfl
@[simp] theorem State.setSource_lockupNmi (s : State) (id : Nat) (f : ClicSource → ClicSource) : (s.setSource id f).lockupNmi = s.lockupNmi := rfl
@[simp] theorem State.setSource_debugMode (s : State) (id : Nat) (f : ClicSource → ClicSource) : (s.setSource id f).debugMode = s.debugMode := rfl
@[simp] theorem State.setSource_sinceReset (s : State) (id : Nat) (f : ClicSource → ClicSource) : (s.setSource id f).sinceReset = s.sinceReset := rfl
@[simp] theorem State.setSource_had (s : State) (id : Nat) (f : ClicSource → ClicSource) : (s.setSource id f).had = s.had := rfl
@[simp] theorem State.setSource_mem (s : State) (id : Nat) (f : ClicSource → ClicSource) : (s.setSource id f).mem = s.mem := rfl
@[simp] theorem State.setSource_inputs (s : State) (id : Nat) (f : ClicSource → ClicSource) : (s.setSource id f).inputs = s.inputs := rfl
@[simp] theorem State.setSource_schedule (s : State) (id : Nat) (f : ClicSource → ClicSource) : (s.setSource id f).schedule = s.schedule := rfl
@[simp] theorem State.setSource_draws (s : State) (id : Nat) (f : ClicSource → ClicSource) : (s.setSource id f).draws = s.draws := rfl

/-! ### writePrevious -/

@[simp] theorem State.writePrevious_cfg (s : State) (mpie : Bool) (mpp : BitVec 2) : (s.writePrevious mpie mpp).cfg = s.cfg := rfl
@[simp] theorem State.writePrevious_regs (s : State) (mpie : Bool) (mpp : BitVec 2) : (s.writePrevious mpie mpp).regs = s.regs := rfl
@[simp] theorem State.writePrevious_pc (s : State) (mpie : Bool) (mpp : BitVec 2) : (s.writePrevious mpie mpp).pc = s.pc := rfl
@[simp] theorem State.writePrevious_priv (s : State) (mpie : Bool) (mpp : BitVec 2) : (s.writePrevious mpie mpp).priv = s.priv := rfl
@[simp] theorem State.writePrevious_csr (s : State) (mpie : Bool) (mpp : BitVec 2) : (s.writePrevious mpie mpp).csr = { s.csr with status := { s.csr.status with mpie := mpie, mpp := s.legalMpp mpp } } := rfl
@[simp] theorem State.writePrevious_mcycle (s : State) (mpie : Bool) (mpp : BitVec 2) : (s.writePrevious mpie mpp).mcycle = s.mcycle := rfl
@[simp] theorem State.writePrevious_minstret (s : State) (mpie : Bool) (mpp : BitVec 2) : (s.writePrevious mpie mpp).minstret = s.minstret := rfl
@[simp] theorem State.writePrevious_mcpuidNext (s : State) (mpie : Bool) (mpp : BitVec 2) : (s.writePrevious mpie mpp).mcpuidNext = s.mcpuidNext := rfl
@[simp] theorem State.writePrevious_pmp (s : State) (mpie : Bool) (mpp : BitVec 2) : (s.writePrevious mpie mpp).pmp = s.pmp := rfl
@[simp] theorem State.writePrevious_clint (s : State) (mpie : Bool) (mpp : BitVec 2) : (s.writePrevious mpie mpp).clint = s.clint := rfl
@[simp] theorem State.writePrevious_clic (s : State) (mpie : Bool) (mpp : BitVec 2) : (s.writePrevious mpie mpp).clic = s.clic := rfl
@[simp] theorem State.writePrevious_icache (s : State) (mpie : Bool) (mpp : BitVec 2) : (s.writePrevious mpie mpp).icache = s.icache := rfl
@[simp] theorem State.writePrevious_stale (s : State) (mpie : Bool) (mpp : BitVec 2) : (s.writePrevious mpie mpp).stale = s.stale := rfl
@[simp] theorem State.writePrevious_sleeping (s : State) (mpie : Bool) (mpp : BitVec 2) : (s.writePrevious mpie mpp).sleeping = s.sleeping := rfl
@[simp] theorem State.writePrevious_nmiPending (s : State) (mpie : Bool) (mpp : BitVec 2) : (s.writePrevious mpie mpp).nmiPending = s.nmiPending := rfl
@[simp] theorem State.writePrevious_lockupNmi (s : State) (mpie : Bool) (mpp : BitVec 2) : (s.writePrevious mpie mpp).lockupNmi = s.lockupNmi := rfl
@[simp] theorem State.writePrevious_debugMode (s : State) (mpie : Bool) (mpp : BitVec 2) : (s.writePrevious mpie mpp).debugMode = s.debugMode := rfl
@[simp] theorem State.writePrevious_sinceReset (s : State) (mpie : Bool) (mpp : BitVec 2) : (s.writePrevious mpie mpp).sinceReset = s.sinceReset := rfl
@[simp] theorem State.writePrevious_had (s : State) (mpie : Bool) (mpp : BitVec 2) : (s.writePrevious mpie mpp).had = s.had := rfl
@[simp] theorem State.writePrevious_mem (s : State) (mpie : Bool) (mpp : BitVec 2) : (s.writePrevious mpie mpp).mem = s.mem := rfl
@[simp] theorem State.writePrevious_inputs (s : State) (mpie : Bool) (mpp : BitVec 2) : (s.writePrevious mpie mpp).inputs = s.inputs := rfl
@[simp] theorem State.writePrevious_schedule (s : State) (mpie : Bool) (mpp : BitVec 2) : (s.writePrevious mpie mpp).schedule = s.schedule := rfl
@[simp] theorem State.writePrevious_draws (s : State) (mpie : Bool) (mpp : BitVec 2) : (s.writePrevious mpie mpp).draws = if s.mppDraws mpp then s.draws + 1 else s.draws := rfl

/-! ### writeMexstatus -/

@[simp] theorem State.writeMexstatus_cfg (s : State) (v : Word) : (s.writeMexstatus v).cfg = s.cfg := rfl
@[simp] theorem State.writeMexstatus_regs (s : State) (v : Word) : (s.writeMexstatus v).regs = s.regs := rfl
@[simp] theorem State.writeMexstatus_pc (s : State) (v : Word) : (s.writeMexstatus v).pc = s.pc := rfl
@[simp] theorem State.writeMexstatus_priv (s : State) (v : Word) : (s.writeMexstatus v).priv = s.priv := rfl
@[simp] theorem State.writeMexstatus_mcycle (s : State) (v : Word) : (s.writeMexstatus v).mcycle = s.mcycle := rfl
@[simp] theorem State.writeMexstatus_minstret (s : State) (v : Word) : (s.writeMexstatus v).minstret = s.minstret := rfl
@[simp] theorem State.writeMexstatus_mcpuidNext (s : State) (v : Word) : (s.writeMexstatus v).mcpuidNext = s.mcpuidNext := rfl
@[simp] theorem State.writeMexstatus_pmp (s : State) (v : Word) : (s.writeMexstatus v).pmp = s.pmp := rfl
@[simp] theorem State.writeMexstatus_clint (s : State) (v : Word) : (s.writeMexstatus v).clint = s.clint := rfl
@[simp] theorem State.writeMexstatus_clic (s : State) (v : Word) : (s.writeMexstatus v).clic = s.clic := rfl
@[simp] theorem State.writeMexstatus_icache (s : State) (v : Word) : (s.writeMexstatus v).icache = s.icache := rfl
@[simp] theorem State.writeMexstatus_stale (s : State) (v : Word) : (s.writeMexstatus v).stale = s.stale := rfl
@[simp] theorem State.writeMexstatus_sleeping (s : State) (v : Word) : (s.writeMexstatus v).sleeping = s.sleeping := rfl
@[simp] theorem State.writeMexstatus_nmiPending (s : State) (v : Word) : (s.writeMexstatus v).nmiPending = s.nmiPending := rfl
@[simp] theorem State.writeMexstatus_lockupNmi (s : State) (v : Word) : (s.writeMexstatus v).lockupNmi = s.lockupNmi := rfl
@[simp] theorem State.writeMexstatus_debugMode (s : State) (v : Word) : (s.writeMexstatus v).debugMode = s.debugMode := rfl
@[simp] theorem State.writeMexstatus_sinceReset (s : State) (v : Word) : (s.writeMexstatus v).sinceReset = s.sinceReset := rfl
@[simp] theorem State.writeMexstatus_had (s : State) (v : Word) : (s.writeMexstatus v).had = s.had := rfl
@[simp] theorem State.writeMexstatus_mem (s : State) (v : Word) : (s.writeMexstatus v).mem = s.mem := rfl
@[simp] theorem State.writeMexstatus_inputs (s : State) (v : Word) : (s.writeMexstatus v).inputs = s.inputs := rfl
@[simp] theorem State.writeMexstatus_schedule (s : State) (v : Word) : (s.writeMexstatus v).schedule = s.schedule := rfl
@[simp] theorem State.writeMexstatus_draws (s : State) (v : Word) : (s.writeMexstatus v).draws = s.draws := rfl

/-! ### writePmpcfg -/

@[simp] theorem State.writePmpcfg_cfg (s : State) (k : Fin 4) (v : Word) : (s.writePmpcfg k v).cfg = s.cfg := rfl
@[simp] theorem State.writePmpcfg_regs (s : State) (k : Fin 4) (v : Word) : (s.writePmpcfg k v).regs = s.regs := rfl
@[simp] theorem State.writePmpcfg_pc (s : State) (k : Fin 4) (v : Word) : (s.writePmpcfg k v).pc = s.pc := rfl
@[simp] theorem State.writePmpcfg_priv (s : State) (k : Fin 4) (v : Word) : (s.writePmpcfg k v).priv = s.priv := rfl
@[simp] theorem State.writePmpcfg_csr (s : State) (k : Fin 4) (v : Word) : (s.writePmpcfg k v).csr = s.csr := rfl
@[simp] theorem State.writePmpcfg_mcycle (s : State) (k : Fin 4) (v : Word) : (s.writePmpcfg k v).mcycle = s.mcycle := rfl
@[simp] theorem State.writePmpcfg_minstret (s : State) (k : Fin 4) (v : Word) : (s.writePmpcfg k v).minstret = s.minstret := rfl
@[simp] theorem State.writePmpcfg_mcpuidNext (s : State) (k : Fin 4) (v : Word) : (s.writePmpcfg k v).mcpuidNext = s.mcpuidNext := rfl
@[simp] theorem State.writePmpcfg_clint (s : State) (k : Fin 4) (v : Word) : (s.writePmpcfg k v).clint = s.clint := rfl
@[simp] theorem State.writePmpcfg_clic (s : State) (k : Fin 4) (v : Word) : (s.writePmpcfg k v).clic = s.clic := rfl
@[simp] theorem State.writePmpcfg_icache (s : State) (k : Fin 4) (v : Word) : (s.writePmpcfg k v).icache = s.icache := rfl
@[simp] theorem State.writePmpcfg_stale (s : State) (k : Fin 4) (v : Word) : (s.writePmpcfg k v).stale = s.stale := rfl
@[simp] theorem State.writePmpcfg_sleeping (s : State) (k : Fin 4) (v : Word) : (s.writePmpcfg k v).sleeping = s.sleeping := rfl
@[simp] theorem State.writePmpcfg_nmiPending (s : State) (k : Fin 4) (v : Word) : (s.writePmpcfg k v).nmiPending = s.nmiPending := rfl
@[simp] theorem State.writePmpcfg_lockupNmi (s : State) (k : Fin 4) (v : Word) : (s.writePmpcfg k v).lockupNmi = s.lockupNmi := rfl
@[simp] theorem State.writePmpcfg_debugMode (s : State) (k : Fin 4) (v : Word) : (s.writePmpcfg k v).debugMode = s.debugMode := rfl
@[simp] theorem State.writePmpcfg_sinceReset (s : State) (k : Fin 4) (v : Word) : (s.writePmpcfg k v).sinceReset = s.sinceReset := rfl
@[simp] theorem State.writePmpcfg_had (s : State) (k : Fin 4) (v : Word) : (s.writePmpcfg k v).had = s.had := rfl
@[simp] theorem State.writePmpcfg_mem (s : State) (k : Fin 4) (v : Word) : (s.writePmpcfg k v).mem = s.mem := rfl
@[simp] theorem State.writePmpcfg_inputs (s : State) (k : Fin 4) (v : Word) : (s.writePmpcfg k v).inputs = s.inputs := rfl
@[simp] theorem State.writePmpcfg_schedule (s : State) (k : Fin 4) (v : Word) : (s.writePmpcfg k v).schedule = s.schedule := rfl
@[simp] theorem State.writePmpcfg_draws (s : State) (k : Fin 4) (v : Word) : (s.writePmpcfg k v).draws = s.draws := rfl

/-! ### sample -/

@[simp] theorem State.sample_cfg (s : State) : (s.sample).cfg = s.cfg := rfl
@[simp] theorem State.sample_regs (s : State) : (s.sample).regs = s.regs := rfl
@[simp] theorem State.sample_pc (s : State) : (s.sample).pc = s.pc := rfl
@[simp] theorem State.sample_priv (s : State) : (s.sample).priv = s.priv := rfl
@[simp] theorem State.sample_csr (s : State) : (s.sample).csr = s.csr := rfl
@[simp] theorem State.sample_mcycle (s : State) : (s.sample).mcycle = s.mcycle := rfl
@[simp] theorem State.sample_minstret (s : State) : (s.sample).minstret = s.minstret := rfl
@[simp] theorem State.sample_mcpuidNext (s : State) : (s.sample).mcpuidNext = s.mcpuidNext := rfl
@[simp] theorem State.sample_pmp (s : State) : (s.sample).pmp = s.pmp := rfl
@[simp] theorem State.sample_clint (s : State) : (s.sample).clint = s.clint := rfl
@[simp] theorem State.sample_clic (s : State) : (s.sample).clic = { s.clic with sources := s.clic.sources.map fun x => x.sample (s.sourceSignal x.id) } := rfl
@[simp] theorem State.sample_icache (s : State) : (s.sample).icache = s.icache := rfl
@[simp] theorem State.sample_stale (s : State) : (s.sample).stale = s.stale := rfl
@[simp] theorem State.sample_sleeping (s : State) : (s.sample).sleeping = s.sleeping := rfl
@[simp] theorem State.sample_nmiPending (s : State) : (s.sample).nmiPending = (s.nmiPending || s.inputs.nmiReq) := rfl
@[simp] theorem State.sample_lockupNmi (s : State) : (s.sample).lockupNmi = s.lockupNmi := rfl
@[simp] theorem State.sample_debugMode (s : State) : (s.sample).debugMode = s.debugMode := rfl
@[simp] theorem State.sample_sinceReset (s : State) : (s.sample).sinceReset = s.sinceReset.next := rfl
@[simp] theorem State.sample_had (s : State) : (s.sample).had = s.had := rfl
@[simp] theorem State.sample_mem (s : State) : (s.sample).mem = s.mem := rfl
@[simp] theorem State.sample_inputs (s : State) : (s.sample).inputs = s.inputs := rfl
@[simp] theorem State.sample_schedule (s : State) : (s.sample).schedule = s.schedule := rfl
@[simp] theorem State.sample_draws (s : State) : (s.sample).draws = s.draws := rfl

/-! ### debugEntry -/

@[simp] theorem State.debugEntry_cfg (s : State) : (s.debugEntry).cfg = s.cfg := rfl
@[simp] theorem State.debugEntry_regs (s : State) : (s.debugEntry).regs = s.regs := rfl
@[simp] theorem State.debugEntry_pc (s : State) : (s.debugEntry).pc = s.pc := rfl
@[simp] theorem State.debugEntry_priv (s : State) : (s.debugEntry).priv = s.priv := rfl
@[simp] theorem State.debugEntry_csr (s : State) : (s.debugEntry).csr = { s.csr with ex := { s.csr.ex with lpmdWoken := s.csr.ex.lpmdWoken || s.sleeping } } := rfl
@[simp] theorem State.debugEntry_mcycle (s : State) : (s.debugEntry).mcycle = s.mcycle := rfl
@[simp] theorem State.debugEntry_minstret (s : State) : (s.debugEntry).minstret = s.minstret := rfl
@[simp] theorem State.debugEntry_mcpuidNext (s : State) : (s.debugEntry).mcpuidNext = s.mcpuidNext := rfl
@[simp] theorem State.debugEntry_pmp (s : State) : (s.debugEntry).pmp = s.pmp := rfl
@[simp] theorem State.debugEntry_clint (s : State) : (s.debugEntry).clint = s.clint := rfl
@[simp] theorem State.debugEntry_clic (s : State) : (s.debugEntry).clic = s.clic := rfl
@[simp] theorem State.debugEntry_icache (s : State) : (s.debugEntry).icache = s.icache := rfl
@[simp] theorem State.debugEntry_stale (s : State) : (s.debugEntry).stale = s.stale := rfl
@[simp] theorem State.debugEntry_sleeping (s : State) : (s.debugEntry).sleeping = false := rfl
@[simp] theorem State.debugEntry_nmiPending (s : State) : (s.debugEntry).nmiPending = s.nmiPending := rfl
@[simp] theorem State.debugEntry_lockupNmi (s : State) : (s.debugEntry).lockupNmi = s.lockupNmi := rfl
@[simp] theorem State.debugEntry_debugMode (s : State) : (s.debugEntry).debugMode = true := rfl
@[simp] theorem State.debugEntry_sinceReset (s : State) : (s.debugEntry).sinceReset = s.sinceReset := rfl
@[simp] theorem State.debugEntry_had (s : State) : (s.debugEntry).had = s.had := rfl
@[simp] theorem State.debugEntry_mem (s : State) : (s.debugEntry).mem = s.mem := rfl
@[simp] theorem State.debugEntry_inputs (s : State) : (s.debugEntry).inputs = s.inputs := rfl
@[simp] theorem State.debugEntry_schedule (s : State) : (s.debugEntry).schedule = s.schedule := rfl
@[simp] theorem State.debugEntry_draws (s : State) : (s.debugEntry).draws = s.draws := rfl

/-! ### writeBytes -/

@[simp] theorem State.writeBytes_cfg (s : State) (a : Word) (size : AccessSize) (v : Word) : (s.writeBytes a size v).cfg = s.cfg := rfl
@[simp] theorem State.writeBytes_regs (s : State) (a : Word) (size : AccessSize) (v : Word) : (s.writeBytes a size v).regs = s.regs := rfl
@[simp] theorem State.writeBytes_pc (s : State) (a : Word) (size : AccessSize) (v : Word) : (s.writeBytes a size v).pc = s.pc := rfl
@[simp] theorem State.writeBytes_priv (s : State) (a : Word) (size : AccessSize) (v : Word) : (s.writeBytes a size v).priv = s.priv := rfl
@[simp] theorem State.writeBytes_csr (s : State) (a : Word) (size : AccessSize) (v : Word) : (s.writeBytes a size v).csr = s.csr := rfl
@[simp] theorem State.writeBytes_mcycle (s : State) (a : Word) (size : AccessSize) (v : Word) : (s.writeBytes a size v).mcycle = s.mcycle := rfl
@[simp] theorem State.writeBytes_minstret (s : State) (a : Word) (size : AccessSize) (v : Word) : (s.writeBytes a size v).minstret = s.minstret := rfl
@[simp] theorem State.writeBytes_mcpuidNext (s : State) (a : Word) (size : AccessSize) (v : Word) : (s.writeBytes a size v).mcpuidNext = s.mcpuidNext := rfl
@[simp] theorem State.writeBytes_pmp (s : State) (a : Word) (size : AccessSize) (v : Word) : (s.writeBytes a size v).pmp = s.pmp := rfl
@[simp] theorem State.writeBytes_clint (s : State) (a : Word) (size : AccessSize) (v : Word) : (s.writeBytes a size v).clint = s.clint := rfl
@[simp] theorem State.writeBytes_clic (s : State) (a : Word) (size : AccessSize) (v : Word) : (s.writeBytes a size v).clic = s.clic := rfl
@[simp] theorem State.writeBytes_icache (s : State) (a : Word) (size : AccessSize) (v : Word) : (s.writeBytes a size v).icache = s.icache := rfl
@[simp] theorem State.writeBytes_stale (s : State) (a : Word) (size : AccessSize) (v : Word) : (s.writeBytes a size v).stale = s.stale := rfl
@[simp] theorem State.writeBytes_sleeping (s : State) (a : Word) (size : AccessSize) (v : Word) : (s.writeBytes a size v).sleeping = s.sleeping := rfl
@[simp] theorem State.writeBytes_nmiPending (s : State) (a : Word) (size : AccessSize) (v : Word) : (s.writeBytes a size v).nmiPending = s.nmiPending := rfl
@[simp] theorem State.writeBytes_lockupNmi (s : State) (a : Word) (size : AccessSize) (v : Word) : (s.writeBytes a size v).lockupNmi = s.lockupNmi := rfl
@[simp] theorem State.writeBytes_debugMode (s : State) (a : Word) (size : AccessSize) (v : Word) : (s.writeBytes a size v).debugMode = s.debugMode := rfl
@[simp] theorem State.writeBytes_sinceReset (s : State) (a : Word) (size : AccessSize) (v : Word) : (s.writeBytes a size v).sinceReset = s.sinceReset := rfl
@[simp] theorem State.writeBytes_had (s : State) (a : Word) (size : AccessSize) (v : Word) : (s.writeBytes a size v).had = s.had := rfl
@[simp] theorem State.writeBytes_mem (s : State) (a : Word) (size : AccessSize) (v : Word) : (s.writeBytes a size v).mem = Memory.writeLE s.mem a size.bytes v := rfl
@[simp] theorem State.writeBytes_inputs (s : State) (a : Word) (size : AccessSize) (v : Word) : (s.writeBytes a size v).inputs = s.inputs := rfl
@[simp] theorem State.writeBytes_schedule (s : State) (a : Word) (size : AccessSize) (v : Word) : (s.writeBytes a size v).schedule = s.schedule := rfl
@[simp] theorem State.writeBytes_draws (s : State) (a : Word) (size : AccessSize) (v : Word) : (s.writeBytes a size v).draws = s.draws := rfl

/-! ### forgetEdges -/

@[simp] theorem State.forgetEdges_cfg (s : State) : (s.forgetEdges).cfg = s.cfg := rfl
@[simp] theorem State.forgetEdges_regs (s : State) : (s.forgetEdges).regs = s.regs := rfl
@[simp] theorem State.forgetEdges_pc (s : State) : (s.forgetEdges).pc = s.pc := rfl
@[simp] theorem State.forgetEdges_priv (s : State) : (s.forgetEdges).priv = s.priv := rfl
@[simp] theorem State.forgetEdges_csr (s : State) : (s.forgetEdges).csr = s.csr := rfl
@[simp] theorem State.forgetEdges_mcycle (s : State) : (s.forgetEdges).mcycle = s.mcycle := rfl
@[simp] theorem State.forgetEdges_minstret (s : State) : (s.forgetEdges).minstret = s.minstret := rfl
@[simp] theorem State.forgetEdges_mcpuidNext (s : State) : (s.forgetEdges).mcpuidNext = s.mcpuidNext := rfl
@[simp] theorem State.forgetEdges_pmp (s : State) : (s.forgetEdges).pmp = s.pmp := rfl
@[simp] theorem State.forgetEdges_clint (s : State) : (s.forgetEdges).clint = s.clint := rfl
@[simp] theorem State.forgetEdges_clic (s : State) : (s.forgetEdges).clic = { s.clic with sources := s.clic.sources.map fun x => { x with edge := false, held := false } } := rfl
@[simp] theorem State.forgetEdges_icache (s : State) : (s.forgetEdges).icache = s.icache := rfl
@[simp] theorem State.forgetEdges_stale (s : State) : (s.forgetEdges).stale = s.stale := rfl
@[simp] theorem State.forgetEdges_sleeping (s : State) : (s.forgetEdges).sleeping = s.sleeping := rfl
@[simp] theorem State.forgetEdges_nmiPending (s : State) : (s.forgetEdges).nmiPending = s.nmiPending := rfl
@[simp] theorem State.forgetEdges_lockupNmi (s : State) : (s.forgetEdges).lockupNmi = s.lockupNmi := rfl
@[simp] theorem State.forgetEdges_debugMode (s : State) : (s.forgetEdges).debugMode = s.debugMode := rfl
@[simp] theorem State.forgetEdges_sinceReset (s : State) : (s.forgetEdges).sinceReset = s.sinceReset := rfl
@[simp] theorem State.forgetEdges_had (s : State) : (s.forgetEdges).had = s.had := rfl
@[simp] theorem State.forgetEdges_mem (s : State) : (s.forgetEdges).mem = s.mem := rfl
@[simp] theorem State.forgetEdges_inputs (s : State) : (s.forgetEdges).inputs = s.inputs := rfl
@[simp] theorem State.forgetEdges_schedule (s : State) : (s.forgetEdges).schedule = s.schedule := rfl
@[simp] theorem State.forgetEdges_draws (s : State) : (s.forgetEdges).draws = s.draws := rfl

/-! ### replacedBy -/

@[simp] theorem State.replacedBy_cfg (s : State) (m : Snapshot) : (s.replacedBy m).cfg = s.cfg := rfl
@[simp] theorem State.replacedBy_regs (s : State) (m : Snapshot) : (s.replacedBy m).regs = m.regs.set 0 s.regs[0] := rfl
@[simp] theorem State.replacedBy_pc (s : State) (m : Snapshot) : (s.replacedBy m).pc = m.pc &&& 0xFFFFFFFE := rfl
@[simp] theorem State.replacedBy_priv (s : State) (m : Snapshot) : (s.replacedBy m).priv = legalPriv s.cfg m.priv := rfl
@[simp] theorem State.replacedBy_csr (s : State) (m : Snapshot) : (s.replacedBy m).csr = m.csr.legal s.cfg := rfl
@[simp] theorem State.replacedBy_mcycle (s : State) (m : Snapshot) : (s.replacedBy m).mcycle = m.mcycle := rfl
@[simp] theorem State.replacedBy_minstret (s : State) (m : Snapshot) : (s.replacedBy m).minstret = m.minstret := rfl
@[simp] theorem State.replacedBy_mcpuidNext (s : State) (m : Snapshot) : (s.replacedBy m).mcpuidNext = m.mcpuidNext := rfl
@[simp] theorem State.replacedBy_pmp (s : State) (m : Snapshot) : (s.replacedBy m).pmp = m.pmp.legal s.cfg.pmpEntries.toNat := rfl
@[simp] theorem State.replacedBy_clint (s : State) (m : Snapshot) : (s.replacedBy m).clint = m.clint := rfl
@[simp] theorem State.replacedBy_clic (s : State) (m : Snapshot) : (s.replacedBy m).clic = s.clic.replacedBy m.clic s.cfg := rfl
@[simp] theorem State.replacedBy_icache (s : State) (m : Snapshot) : (s.replacedBy m).icache = m.icache := rfl
@[simp] theorem State.replacedBy_stale (s : State) (m : Snapshot) : (s.replacedBy m).stale = m.stale := rfl
@[simp] theorem State.replacedBy_sleeping (s : State) (m : Snapshot) : (s.replacedBy m).sleeping = m.sleeping := rfl
@[simp] theorem State.replacedBy_nmiPending (s : State) (m : Snapshot) : (s.replacedBy m).nmiPending = m.nmiPending := rfl
@[simp] theorem State.replacedBy_lockupNmi (s : State) (m : Snapshot) : (s.replacedBy m).lockupNmi = m.lockupNmi := rfl
@[simp] theorem State.replacedBy_debugMode (s : State) (m : Snapshot) : (s.replacedBy m).debugMode = s.debugMode := rfl
@[simp] theorem State.replacedBy_sinceReset (s : State) (m : Snapshot) : (s.replacedBy m).sinceReset = s.sinceReset := rfl
@[simp] theorem State.replacedBy_had (s : State) (m : Snapshot) : (s.replacedBy m).had = s.had := rfl
@[simp] theorem State.replacedBy_mem (s : State) (m : Snapshot) : (s.replacedBy m).mem = Memory.patch s.mem m.mem := rfl
@[simp] theorem State.replacedBy_inputs (s : State) (m : Snapshot) : (s.replacedBy m).inputs = s.inputs := rfl
@[simp] theorem State.replacedBy_schedule (s : State) (m : Snapshot) : (s.replacedBy m).schedule = s.schedule := rfl
@[simp] theorem State.replacedBy_draws (s : State) (m : Snapshot) : (s.replacedBy m).draws = s.draws := rfl

/-! ### afterReset -/

@[simp] theorem State.afterReset_cfg (s : State) (n : BitVec 64) : (s.afterReset n).cfg = s.cfg := rfl
@[simp] theorem State.afterReset_regs (s : State) (n : BitVec 64) : (s.afterReset n).regs = (State.resetWith s.cfg).regs := rfl
@[simp] theorem State.afterReset_pc (s : State) (n : BitVec 64) : (s.afterReset n).pc = (State.resetWith s.cfg).pc := rfl
@[simp] theorem State.afterReset_priv (s : State) (n : BitVec 64) : (s.afterReset n).priv = (State.resetWith s.cfg).priv := rfl
@[simp] theorem State.afterReset_csr (s : State) (n : BitVec 64) : (s.afterReset n).csr = (State.resetWith s.cfg).csr := rfl
@[simp] theorem State.afterReset_mcycle (s : State) (n : BitVec 64) : (s.afterReset n).mcycle = (State.resetWith s.cfg).mcycle := rfl
@[simp] theorem State.afterReset_minstret (s : State) (n : BitVec 64) : (s.afterReset n).minstret = (State.resetWith s.cfg).minstret := rfl
@[simp] theorem State.afterReset_mcpuidNext (s : State) (n : BitVec 64) : (s.afterReset n).mcpuidNext = (State.resetWith s.cfg).mcpuidNext := rfl
@[simp] theorem State.afterReset_pmp (s : State) (n : BitVec 64) : (s.afterReset n).pmp = (State.resetWith s.cfg).pmp := rfl
@[simp] theorem State.afterReset_clint (s : State) (n : BitVec 64) : (s.afterReset n).clint = (State.resetWith s.cfg).clint := rfl
@[simp] theorem State.afterReset_clic (s : State) (n : BitVec 64) : (s.afterReset n).clic = (State.resetWith s.cfg).clic := rfl
@[simp] theorem State.afterReset_icache (s : State) (n : BitVec 64) : (s.afterReset n).icache = (State.resetWith s.cfg).icache := rfl
@[simp] theorem State.afterReset_stale (s : State) (n : BitVec 64) : (s.afterReset n).stale = s.stale := rfl
@[simp] theorem State.afterReset_sleeping (s : State) (n : BitVec 64) : (s.afterReset n).sleeping = (State.resetWith s.cfg).sleeping := rfl
@[simp] theorem State.afterReset_nmiPending (s : State) (n : BitVec 64) : (s.afterReset n).nmiPending = (State.resetWith s.cfg).nmiPending := rfl
@[simp] theorem State.afterReset_lockupNmi (s : State) (n : BitVec 64) : (s.afterReset n).lockupNmi = (State.resetWith s.cfg).lockupNmi := rfl
@[simp] theorem State.afterReset_debugMode (s : State) (n : BitVec 64) : (s.afterReset n).debugMode = (State.resetWith s.cfg).debugMode := rfl
@[simp] theorem State.afterReset_sinceReset (s : State) (n : BitVec 64) : (s.afterReset n).sinceReset = (State.resetWith s.cfg).sinceReset := rfl
@[simp] theorem State.afterReset_had (s : State) (n : BitVec 64) : (s.afterReset n).had = s.had := rfl
@[simp] theorem State.afterReset_mem (s : State) (n : BitVec 64) : (s.afterReset n).mem = s.mem := rfl
@[simp] theorem State.afterReset_inputs (s : State) (n : BitVec 64) : (s.afterReset n).inputs = { s.inputs with sysCnt := n } := rfl
@[simp] theorem State.afterReset_schedule (s : State) (n : BitVec 64) : (s.afterReset n).schedule = s.schedule := rfl
@[simp] theorem State.afterReset_draws (s : State) (n : BitVec 64) : (s.afterReset n).draws = s.draws := rfl

/-! ### setReg and reg -/

@[simp] theorem State.setReg_zero (s : State) (v : Word) : s.setReg 0 v = s := rfl

@[simp] theorem State.setReg_cfg (s : State) (r : Reg) (v : Word) : (s.setReg r v).cfg = s.cfg := by
  unfold State.setReg; split <;> rfl
@[simp] theorem State.setReg_pc (s : State) (r : Reg) (v : Word) : (s.setReg r v).pc = s.pc := by
  unfold State.setReg; split <;> rfl
@[simp] theorem State.setReg_priv (s : State) (r : Reg) (v : Word) : (s.setReg r v).priv = s.priv := by
  unfold State.setReg; split <;> rfl
@[simp] theorem State.setReg_csr (s : State) (r : Reg) (v : Word) : (s.setReg r v).csr = s.csr := by
  unfold State.setReg; split <;> rfl
@[simp] theorem State.setReg_mcycle (s : State) (r : Reg) (v : Word) : (s.setReg r v).mcycle = s.mcycle := by
  unfold State.setReg; split <;> rfl
@[simp] theorem State.setReg_minstret (s : State) (r : Reg) (v : Word) : (s.setReg r v).minstret = s.minstret := by
  unfold State.setReg; split <;> rfl
@[simp] theorem State.setReg_mcpuidNext (s : State) (r : Reg) (v : Word) : (s.setReg r v).mcpuidNext = s.mcpuidNext := by
  unfold State.setReg; split <;> rfl
@[simp] theorem State.setReg_pmp (s : State) (r : Reg) (v : Word) : (s.setReg r v).pmp = s.pmp := by
  unfold State.setReg; split <;> rfl
@[simp] theorem State.setReg_clint (s : State) (r : Reg) (v : Word) : (s.setReg r v).clint = s.clint := by
  unfold State.setReg; split <;> rfl
@[simp] theorem State.setReg_clic (s : State) (r : Reg) (v : Word) : (s.setReg r v).clic = s.clic := by
  unfold State.setReg; split <;> rfl
@[simp] theorem State.setReg_icache (s : State) (r : Reg) (v : Word) : (s.setReg r v).icache = s.icache := by
  unfold State.setReg; split <;> rfl
@[simp] theorem State.setReg_stale (s : State) (r : Reg) (v : Word) : (s.setReg r v).stale = s.stale := by
  unfold State.setReg; split <;> rfl
@[simp] theorem State.setReg_sleeping (s : State) (r : Reg) (v : Word) : (s.setReg r v).sleeping = s.sleeping := by
  unfold State.setReg; split <;> rfl
@[simp] theorem State.setReg_nmiPending (s : State) (r : Reg) (v : Word) : (s.setReg r v).nmiPending = s.nmiPending := by
  unfold State.setReg; split <;> rfl
@[simp] theorem State.setReg_lockupNmi (s : State) (r : Reg) (v : Word) : (s.setReg r v).lockupNmi = s.lockupNmi := by
  unfold State.setReg; split <;> rfl
@[simp] theorem State.setReg_debugMode (s : State) (r : Reg) (v : Word) : (s.setReg r v).debugMode = s.debugMode := by
  unfold State.setReg; split <;> rfl
@[simp] theorem State.setReg_sinceReset (s : State) (r : Reg) (v : Word) : (s.setReg r v).sinceReset = s.sinceReset := by
  unfold State.setReg; split <;> rfl
@[simp] theorem State.setReg_had (s : State) (r : Reg) (v : Word) : (s.setReg r v).had = s.had := by
  unfold State.setReg; split <;> rfl
@[simp] theorem State.setReg_mem (s : State) (r : Reg) (v : Word) : (s.setReg r v).mem = s.mem := by
  unfold State.setReg; split <;> rfl
@[simp] theorem State.setReg_inputs (s : State) (r : Reg) (v : Word) : (s.setReg r v).inputs = s.inputs := by
  unfold State.setReg; split <;> rfl
@[simp] theorem State.setReg_schedule (s : State) (r : Reg) (v : Word) : (s.setReg r v).schedule = s.schedule := by
  unfold State.setReg; split <;> rfl
@[simp] theorem State.setReg_draws (s : State) (r : Reg) (v : Word) : (s.setReg r v).draws = s.draws := by
  unfold State.setReg; split <;> rfl

@[simp] theorem State.reg_zero (s : State) : s.reg 0 = 0 := rfl

theorem State.reg_congr {s t : State} (h : t.regs = s.regs) (r : Reg) : t.reg r = s.reg r := by
  unfold State.reg; rw [h]

theorem State.setReg_reg_same (s : State) (r : Reg) (v : Word) (h : r ≠ 0) : (s.setReg r v).reg r = v := by
  simp [State.setReg, State.reg, h]

theorem State.setReg_reg_other (s : State) {r q : Reg} (v : Word) (h : q ≠ r) : (s.setReg r v).reg q = s.reg q := by
  have hv : r.val ≠ q.val := fun e => h (Fin.ext e.symm)
  unfold State.setReg
  split
  · rfl
  · simp [State.reg, hv]

/-- Writing a register, said once: x0 reads 0, the register written reads the value, every other one as before. -/
theorem State.setReg_reg (s : State) (r q : Reg) (v : Word) :
    (s.setReg r v).reg q = if q = 0 then 0 else if q = r then v else s.reg q := by
  by_cases hq : q = 0
  · subst hq; simp
  · by_cases h : q = r
    · subst h; simp [hq, State.setReg_reg_same]
    · simp [hq, h, State.setReg_reg_other s v h]

@[simp] theorem State.retire_reg (s : State) (pc : Word) (r : Reg) : (s.retire pc).reg r = s.reg r := rfl
@[simp] theorem State.advance_reg (s : State) (n : Word) (r : Reg) : (s.advance n).reg r = s.reg r := rfl
@[simp] theorem State.drawn_reg (s : State) (r : Reg) : (s.drawn).reg r = s.reg r := rfl
@[simp] theorem State.readCycles_reg (s : State) (r : Reg) : (s.readCycles).reg r = s.reg r := rfl
@[simp] theorem State.storeBytes_reg (s : State) (a : Word) (size : AccessSize) (v : Word) (r : Reg) : (s.storeBytes a size v).reg r = s.reg r := rfl
@[simp] theorem State.lockUp_reg (s : State) (r : Reg) : (s.lockUp).reg r = s.reg r := rfl
@[simp] theorem State.enterException_reg (s : State) (e : Exc) (r : Reg) : (s.enterException e).reg r = s.reg r := rfl
@[simp] theorem State.trapReturn_reg (s : State) (r : Reg) : (s.trapReturn).reg r = s.reg r := rfl
@[simp] theorem State.nmiReturn_reg (s : State) (r : Reg) : (s.nmiReturn).reg r = s.reg r := rfl
@[simp] theorem State.nmiEntry_reg (s : State) (r : Reg) : (s.nmiEntry).reg r = s.reg r := rfl
@[simp] theorem State.enterInterrupt_reg (s : State) (x : ClicSource) (r : Reg) : (s.enterInterrupt x).reg r = s.reg r := rfl
@[simp] theorem State.setSource_reg (s : State) (id : Nat) (f : ClicSource → ClicSource) (r : Reg) : (s.setSource id f).reg r = s.reg r := rfl
@[simp] theorem State.writePrevious_reg (s : State) (mpie : Bool) (mpp : BitVec 2) (r : Reg) : (s.writePrevious mpie mpp).reg r = s.reg r := rfl
@[simp] theorem State.writeMexstatus_reg (s : State) (v : Word) (r : Reg) : (s.writeMexstatus v).reg r = s.reg r := rfl
@[simp] theorem State.writePmpcfg_reg (s : State) (k : Fin 4) (v : Word) (r : Reg) : (s.writePmpcfg k v).reg r = s.reg r := rfl
@[simp] theorem State.sample_reg (s : State) (r : Reg) : (s.sample).reg r = s.reg r := rfl
@[simp] theorem State.writeBytes_reg (s : State) (a : Word) (size : AccessSize) (v : Word) (r : Reg) : (s.writeBytes a size v).reg r = s.reg r := rfl
@[simp] theorem State.forgetEdges_reg (s : State) (r : Reg) : (s.forgetEdges).reg r = s.reg r := rfl
@[simp] theorem State.debugEntry_reg (s : State) (r : Reg) : (s.debugEntry).reg r = s.reg r := rfl

/-- A change of the program counter alone keeps every register. -/
@[simp] theorem State.withPc_reg (s : State) (pc : Word) (r : Reg) : ({ s with pc := pc } : State).reg r = s.reg r := rfl

/-! ### The conditions that choose between two updates -/

theorem State.trapEntry_taken (s : State) (e : Exc) (h : s.exceptionLocks e = false) :
    s.trapEntry e = s.enterException e := by
  simp [State.trapEntry, h]

theorem State.trapEntry_locked (s : State) (e : Exc) (h : s.exceptionLocks e = true) : s.trapEntry e = s.lockUp := by
  simp [State.trapEntry, h]

@[simp] theorem State.trapEntry_cfg (s : State) (e : Exc) : (s.trapEntry e).cfg = s.cfg := by
  unfold State.trapEntry; split <;> rfl
@[simp] theorem State.trapEntry_regs (s : State) (e : Exc) : (s.trapEntry e).regs = s.regs := by
  unfold State.trapEntry; split <;> rfl
@[simp] theorem State.trapEntry_mcycle (s : State) (e : Exc) : (s.trapEntry e).mcycle = s.mcycle := by
  unfold State.trapEntry; split <;> rfl
@[simp] theorem State.trapEntry_mcpuidNext (s : State) (e : Exc) : (s.trapEntry e).mcpuidNext = s.mcpuidNext := by
  unfold State.trapEntry; split <;> rfl
@[simp] theorem State.trapEntry_pmp (s : State) (e : Exc) : (s.trapEntry e).pmp = s.pmp := by
  unfold State.trapEntry; split <;> rfl
@[simp] theorem State.trapEntry_clint (s : State) (e : Exc) : (s.trapEntry e).clint = s.clint := by
  unfold State.trapEntry; split <;> rfl
@[simp] theorem State.trapEntry_clic (s : State) (e : Exc) : (s.trapEntry e).clic = s.clic := by
  unfold State.trapEntry; split <;> rfl
@[simp] theorem State.trapEntry_icache (s : State) (e : Exc) : (s.trapEntry e).icache = s.icache := by
  unfold State.trapEntry; split <;> rfl
@[simp] theorem State.trapEntry_stale (s : State) (e : Exc) : (s.trapEntry e).stale = s.stale := by
  unfold State.trapEntry; split <;> rfl
@[simp] theorem State.trapEntry_sleeping (s : State) (e : Exc) : (s.trapEntry e).sleeping = s.sleeping := by
  unfold State.trapEntry; split <;> rfl
@[simp] theorem State.trapEntry_nmiPending (s : State) (e : Exc) : (s.trapEntry e).nmiPending = s.nmiPending := by
  unfold State.trapEntry; split <;> rfl
@[simp] theorem State.trapEntry_debugMode (s : State) (e : Exc) : (s.trapEntry e).debugMode = s.debugMode := by
  unfold State.trapEntry; split <;> rfl
@[simp] theorem State.trapEntry_sinceReset (s : State) (e : Exc) : (s.trapEntry e).sinceReset = s.sinceReset := by
  unfold State.trapEntry; split <;> rfl
@[simp] theorem State.trapEntry_had (s : State) (e : Exc) : (s.trapEntry e).had = s.had := by
  unfold State.trapEntry; split <;> rfl
@[simp] theorem State.trapEntry_mem (s : State) (e : Exc) : (s.trapEntry e).mem = s.mem := by
  unfold State.trapEntry; split <;> rfl
@[simp] theorem State.trapEntry_inputs (s : State) (e : Exc) : (s.trapEntry e).inputs = s.inputs := by
  unfold State.trapEntry; split <;> rfl
@[simp] theorem State.trapEntry_schedule (s : State) (e : Exc) : (s.trapEntry e).schedule = s.schedule := by
  unfold State.trapEntry; split <;> rfl
@[simp] theorem State.trapEntry_draws (s : State) (e : Exc) : (s.trapEntry e).draws = s.draws := by
  unfold State.trapEntry; split <;> rfl
@[simp] theorem State.trapEntry_reg (s : State) (e : Exc) (r : Reg) : (s.trapEntry e).reg r = s.reg r := by
  unfold State.trapEntry; split <;> rfl

end Sys2Proof.Machine
end

