-- ==== Sys2Proof/Laws/Memory.lean ====
section
/-! SUPPORT. The laws of memory: a read after a write, and that every memory operation keeps the canonical form. -/

namespace Sys2Proof.Machine

/-! ### One byte -/

@[simp] theorem Memory.read_nil (a : Nat) : Memory.read [] a = unlistedByte := rfl

theorem Memory.read_append_left {l : List Host.Cell} (r : List Host.Cell) {a : Nat} (h : ∀ c ∈ l, c.1 ≠ a) :
    Memory.read (l ++ r) a = Memory.read r a := by
  induction l with
  | nil => rfl
  | cons c l ih =>
    have hc : c.1 ≠ a := h c (by simp)
    simpa [Memory.read, hc] using ih fun d hd => h d (by simp [hd])

/-- Entries at other addresses do not matter to a read. -/
theorem Memory.read_filter (p : Host.Cell → Bool) (m : List Host.Cell) {a : Nat} (h : ∀ v, p (a, v) = true) :
    Memory.read (m.filter p) a = Memory.read m a := by
  induction m with
  | nil => rfl
  | cons c m ih =>
    obtain ⟨b, v⟩ := c
    by_cases hb : b = a
    · subst hb; simp [h v, Memory.read]
    · by_cases hp : p (b, v) = true <;> simp [hp, Memory.read, hb, ih]

/-- Where no entry names the address, its byte is the unlisted one. -/
theorem Memory.read_absent {m : List Host.Cell} {a : Nat} (h : ∀ c ∈ m, c.1 ≠ a) : Memory.read m a = unlistedByte := by
  simpa using Memory.read_append_left [] h

theorem Memory.read_append_right {l r : List Host.Cell} {a : Nat} (h : ∀ c ∈ r, c.1 ≠ a) :
    Memory.read (l ++ r) a = Memory.read l a := by
  induction l with
  | nil => simpa using Memory.read_absent h
  | cons c l ih => by_cases hc : c.1 = a <;> simp [Memory.read, hc, ih]

/-- A read after a write to the same address gives the value written. -/
@[simp] theorem Memory.read_write_same (m : List Host.Cell) (a : Nat) (v : Byte) :
    Memory.read (Memory.write m a v) a = v := by
  unfold Memory.write
  rw [List.append_assoc, Memory.read_append_left _ (by simp; omega)]
  split
  · next h => rw [h]; exact Memory.read_absent (by simp; omega)
  · simp [Memory.read]

/-- A write leaves every other address as it was. -/
theorem Memory.read_write_other (m : List Host.Cell) {a b : Nat} (v : Byte) (h : b ≠ a) :
    Memory.read (Memory.write m a v) b = Memory.read m b := by
  have hmid : ∀ c ∈ (if v = unlistedByte then ([] : List Host.Cell) else [(a, v)]), c.1 ≠ b := by
    intro c hc
    split at hc
    · simp at hc
    · simp only [List.mem_singleton] at hc; subst hc; exact fun e => h e.symm
  unfold Memory.write
  rcases Nat.lt_or_gt_of_ne h with hlt | hgt
  · rw [List.append_assoc, Memory.read_append_right, Memory.read_filter _ _ (by simpa using hlt)]
    intro c hc
    rcases List.mem_append.1 hc with hc | hc
    · exact hmid c hc
    · simp at hc; omega
  · rw [List.append_assoc, Memory.read_append_left _ (by simp; omega), Memory.read_append_left _ hmid,
      Memory.read_filter _ _ (by simpa using hgt)]

theorem Memory.read_write (m : List Host.Cell) (a b : Nat) (v : Byte) :
    Memory.read (Memory.write m a v) b = if b = a then v else Memory.read m b := by
  split
  · next h => subst h; simp
  · next h => exact Memory.read_write_other m v h

/-- A write keeps the canonical form. -/
theorem Memory.write_wf {m : List Host.Cell} (h : Memory.wf m) {a : Nat} (v : Byte) (ha : a < 2 ^ 32) :
    Memory.wf (Memory.write m a v) := by
  obtain ⟨hs, hm⟩ := h
  unfold Memory.write
  refine ⟨?_, ?_⟩
  · rw [List.pairwise_append, List.pairwise_append]
    refine ⟨⟨hs.filter _, ?_, ?_⟩, hs.filter _, ?_⟩
    · split <;> simp
    · intro c hc d hd
      split at hd
      · simp at hd
      · simp at hc hd; subst hd; exact hc.2
    · intro c hc d hd
      simp only [List.mem_append, List.mem_filter] at hc hd
      have hd2 : a < d.1 := by simpa using hd.2
      rcases hc with hc | hc
      · have : c.1 < a := by simpa using hc.2
        omega
      · split at hc
        · simp at hc
        · simp at hc; subst hc; exact hd2
  · intro c hc
    simp only [List.mem_append, List.mem_filter] at hc
    rcases hc with (hc | hc) | hc
    · exact hm c hc.1
    · split at hc
      · simp at hc
      · next hv => simp at hc; subst hc; exact ⟨hv, ha⟩
    · exact hm c hc.1

/-! ### Several bytes -/

/-- A store of several bytes keeps the canonical form. -/
theorem Memory.writeLE_wf {m : List Host.Cell} (h : Memory.wf m) (a : Word) (n : Nat) (v : Word) :
    Memory.wf (Memory.writeLE m a n v) := by
  induction n generalizing m a v with
  | zero => exact h
  | succ n ih => exact ih (Memory.write_wf h _ a.isLt) _ _

/-- A store leaves every byte outside it as it was. -/
theorem Memory.read_writeLE_other (m : List Host.Cell) (a b : Word) (n : Nat) (v : Word)
    (h : ∀ k, k < n → b ≠ a + BitVec.ofNat 32 k) : Memory.read (Memory.writeLE m a n v) b.toNat = Memory.read m b.toNat := by
  induction n generalizing m a v with
  | zero => rfl
  | succ n ih =>
    have h0 : b.toNat ≠ a.toNat := fun e => h 0 (by omega) (by simpa using BitVec.eq_of_toNat_eq e)
    rw [Memory.writeLE, ih, Memory.read_write_other _ _ h0]
    intro k hk e
    refine h (k + 1) (by omega) (e.trans ?_)
    rw [show k + 1 = 1 + k by omega, BitVec.ofNat_add, BitVec.add_assoc]
    rfl

/-- Byte `k` of what a store of at most four bytes wrote. -/
theorem Memory.read_writeLE_same (m : List Host.Cell) (a : Word) (n : Nat) (v : Word) (hn : n ≤ 4) (k : Nat) (hk : k < n) :
    Memory.read (Memory.writeLE m a n v) (a + BitVec.ofNat 32 k).toNat = v.extractLsb' (8 * k) 8 := by
  induction n generalizing m a v k with
  | zero => omega
  | succ n ih =>
    rw [Memory.writeLE]
    cases k with
    | zero =>
      rw [Memory.read_writeLE_other, BitVec.add_zero, Memory.read_write_same]
      · ext i hi; simp
      · intro j hj e
        have := congrArg BitVec.toNat e
        simp [BitVec.toNat_add] at this
        omega
    | succ k =>
      have e : a + BitVec.ofNat 32 (k + 1) = a + 1 + BitVec.ofNat 32 k := by
        rw [show k + 1 = 1 + k by omega, BitVec.ofNat_add, BitVec.add_assoc]; rfl
      rw [e, ih _ _ _ (by omega) k (by omega)]
      ext i hi
      simp [show 8 * (k + 1) + i = 8 + (8 * k + i) by omega]

/-- A store keeps the canonical form of memory. -/
theorem State.storeBytes_wf {s : State} (h : Memory.wf s.mem) (a : Word) (size : AccessSize) (v : Word) :
    Memory.wf (s.storeBytes a size v).mem := Memory.writeLE_wf h a _ v

/-- A store of another agent keeps the canonical form of memory. -/
theorem State.writeBytes_wf {s : State} (h : Memory.wf s.mem) (a : Word) (size : AccessSize) (v : Word) :
    Memory.wf (s.writeBytes a size v).mem := Memory.writeLE_wf h a _ v

/-- Changing some bytes keeps the canonical form. -/
theorem Memory.patch_wf {m : List Host.Cell} (h : Memory.wf m) (l : List (Word × Byte)) :
    Memory.wf (Memory.patch m l) := by
  induction l generalizing m with
  | nil => exact h
  | cons x l ih =>
    refine ih (m := if inTcip x.1 then m else Memory.write m x.1.toNat x.2) ?_
    split
    · exact h
    · exact Memory.write_wf h _ x.1.isLt

/-- The memory of a machine after reset is canonical. -/
theorem State.resetWith_mem_wf (c : Config) : Memory.wf (State.resetWith c).mem := by
  constructor <;> simp [State.resetWith]

end Sys2Proof.Machine
end

