-- ==== Sys2Proof/Laws/Ops.lean ====
section
/-! SUPPORT. For each operation the meanings share, one lemma that says everything it can do; later proofs cite these
instead of unfolding the operation. -/

namespace Sys2Proof.Machine

/-! ### Writing a register and going on -/

theorem KeepsSystem.refl (s : State) : KeepsSystem s s := by
  constructor <;> rfl

theorem KeepsSystem.setReg_retire (s : State) (rd : Reg) (v pc : Word) : KeepsSystem s ((s.setReg rd v).retire pc) := by
  constructor <;> simp

theorem KeepsMemory.setReg_retire (s : State) (rd : Reg) (v pc : Word) :
    KeepsMemory s ((s.setReg rd v).retire pc) := by
  constructor <;> simp [State.byteAt]

/-- The result of a register instruction. -/
theorem regResult_setReg_advance (s : State) (rd : Reg) (v n : Word) :
    RegResult s ((s.setReg rd v).advance n) rd v n where
  result h := by rw [State.advance_reg]; exact State.setReg_reg_same s rd v h
  zero := by simp
  others r h := by rw [State.advance_reg]; exact State.setReg_reg_other s v h
  pc := by simp
  retired := by simp
  system := KeepsSystem.setReg_retire s rd v _
  memory := KeepsMemory.setReg_retire s rd v _

/-- `setAdvance` always answers a next state: the register result. -/
theorem setAdvance_next (s : State) (rd : Reg) (v n : Word) :
    ∃ t, setAdvance s rd v n = .next t ∧ RegResult s t rd v n :=
  ⟨_, rfl, regResult_setReg_advance s rd v n⟩

theorem retire_pcResult (s : State) (target : Word) : PcResult s (s.retire target) target where
  pc := rfl
  regs _ := rfl
  retired := rfl
  system := by constructor <;> rfl
  memory := ⟨fun _ => rfl, rfl⟩

/-- A branch always answers a next state. -/
theorem branch_next (s : State) (taken : Bool) (offset n : Word) :
    ∃ t, branch s taken offset n = .next t ∧ PcResult s t (if taken then s.pc + offset else s.pc + n) :=
  ⟨_, rfl, retire_pcResult s _⟩

/-- A linking jump always answers a next state. -/
theorem jumpLink_next (s : State) (rd : Reg) (target n : Word) :
    ∃ t, jumpLink s rd target n = .next t ∧ LinkResult s t rd (s.pc + n) target := by
  refine ⟨_, rfl, ?_⟩
  constructor
  · simp
  · intro h; rw [State.retire_reg]; exact State.setReg_reg_same s rd _ h
  · simp
  · intro r h; rw [State.retire_reg]; exact State.setReg_reg_other s _ h
  · simp
  · exact KeepsSystem.setReg_retire s rd _ _
  · exact KeepsMemory.setReg_retire s rd _ _

/-! ### Exceptions -/

@[simp] theorem raise_eq (s : State) (e : Exc) : raise s e = .next (s.trapEntry e) := rfl

@[simp] theorem raiseIllegal_eq (s : State) (i : Instr) :
    raiseIllegal s i = .next (s.trapEntry (.illegal (encode i).toWord)) := rfl

/-- An exception entry that does not lock up, field by field. -/
theorem enterException_taken (s : State) (e : Exc) :
    TrapTaken s (s.enterException e) e.code e.info (!e.selfInflicted || s.cfg.ecallSetsExptVld) := by
  constructor
  case exptVld =>
    cases h : (!e.selfInflicted || s.cfg.ecallSetsExptVld) <;> simp [h]
  case csr => rfl
  case others => constructor <;> simp [State.byteAt]
  all_goals simp [State.trapVector]

/-- Everything an exception entry can do. -/
theorem trapEntry_cases (s : State) (e : Exc) :
    s.exceptionLocks e = true ∧ s.trapEntry e = s.lockUp ∨
      s.exceptionLocks e = false ∧ s.trapEntry e = s.enterException e := by
  cases h : s.exceptionLocks e
  · exact .inr ⟨rfl, s.trapEntry_taken e h⟩
  · exact .inl ⟨rfl, s.trapEntry_locked e h⟩

/-! ### Data accesses -/

/-- A read of memory that nothing stops. -/
theorem memRead_memory {s : State} {a : Word} {size : AccessSize} (h : s.loadsMemory a size) :
    s.memRead a size = .ok (Memory.readLE s.mem a size.bytes) := by
  obtain ⟨h1, h2, h3, h4⟩ := h
  simp [State.memRead, h1, h2, h3, h4]

/-- Everything a read can answer. -/
theorem memRead_cases (s : State) (a : Word) (size : AccessSize) :
    (s.loadsMemory a size ∧ s.memRead a size = .ok (Memory.readLE s.mem a size.bytes)) ∨
    (aligned a size = true ∧ s.pmpAllows s.dataPriv .load a = true ∧ inTcip a = true ∧ s.dataPriv = .machine ∧
      ((∃ v, s.tcipRead a size = some v ∧ s.memRead a size = .ok v) ∨
        (s.tcipRead a size = none ∧ s.memRead a size = .refused .tcipAccess))) ∨
    (aligned a size = false ∧ s.memRead a size = .raised (.loadMisaligned a)) ∨
    (aligned a size = true ∧ s.memRead a size = .raised (.loadAccessFault a)) := by
  unfold State.loadsMemory State.memRead
  cases h1 : aligned a size <;> cases h2 : s.pmpAllows s.dataPriv .load a <;> cases h3 : inTcip a <;>
    cases h4 : s.busError a size .load <;> cases h5 : s.dataPriv <;> cases h6 : s.tcipRead a size <;> simp

/-- A write of memory that nothing stops. -/
theorem memWrite_memory {s : State} {a : Word} {size : AccessSize} (v : Word) (h : s.storesMemory a size) :
    s.memWrite a size v = .ok (s.storeBytes a size v) := by
  obtain ⟨h1, h2, h3, h4⟩ := h
  simp [State.memWrite, h1, h2, h3, h4]

/-- Everything a write can answer. -/
theorem memWrite_cases (s : State) (a : Word) (size : AccessSize) (v : Word) :
    (s.storesMemory a size ∧ s.memWrite a size v = .ok (s.storeBytes a size v)) ∨
    (aligned a size = true ∧ s.pmpAllows s.dataPriv .store a = true ∧ inTcip a = true ∧ s.dataPriv = .machine ∧
      ((∃ t, s.tcipWrite a size v = some t ∧ s.memWrite a size v = .ok t) ∨
        (s.tcipWrite a size v = none ∧ s.memWrite a size v = .refused .tcipAccess))) ∨
    (aligned a size = false ∧ s.memWrite a size v = .raised (.storeMisaligned a)) ∨
    (aligned a size = true ∧ s.memWrite a size v = .raised (.storeAccessFault a)) := by
  unfold State.storesMemory State.memWrite
  cases h1 : aligned a size <;> cases h2 : s.pmpAllows s.dataPriv .store a <;> cases h3 : inTcip a <;>
    cases h4 : s.busError a size .store <;> cases h5 : s.dataPriv <;> cases h6 : s.tcipWrite a size v <;> simp

/-- A load from memory answers the register result. -/
theorem load_memory {s : State} {a : Word} {size : AccessSize} (rd : Reg) (f : Word → Word) (n : Word)
    (h : s.loadsMemory a size) :
    ∃ t, load s rd a size f n = .next t ∧ RegResult s t rd (f (Memory.readLE s.mem a size.bytes)) n := by
  simp only [load, memRead_memory h]
  exact setAdvance_next s rd _ n

/-- Everything a load can answer. -/
theorem load_cases (s : State) (rd : Reg) (a : Word) (size : AccessSize) (f : Word → Word) (n : Word) :
    (∃ v, s.memRead a size = .ok v ∧ load s rd a size f n = setAdvance s rd (f v) n) ∨
    (∃ e, s.memRead a size = .raised e ∧ load s rd a size f n = .next (s.trapEntry e)) ∨
    (∃ r, s.memRead a size = .refused r ∧ load s rd a size f n = .refused r) := by
  unfold load
  cases s.memRead a size <;> simp

theorem rememberParcel_stale (old new : List Host.Cell) (a : Word) (l : List (Nat × Half)) (e : Nat × Half) :
    (e ∈ l → e ∈ rememberParcel old new a l) ∧
      (e ∈ rememberParcel old new a l → e ∈ l ∨ e = (a.toNat, Memory.readHalf old a)) := by
  unfold rememberParcel
  split
  · exact ⟨id, .inl⟩
  · exact ⟨List.mem_cons_of_mem _, fun h => (List.mem_cons.1 h).symm⟩

/-- What memory held in a parcel that a store changes is remembered. -/
theorem rememberParcel_replaced {old new : List Host.Cell} {a : Word} (l : List (Nat × Half))
    (h : Memory.readHalf old a ≠ Memory.readHalf new a) : (a.toNat, Memory.readHalf old a) ∈ rememberParcel old new a l := by
  unfold rememberParcel
  split
  · next hc => exact hc.resolve_left h
  · exact List.mem_cons_self

/-- The parcels a store remembers, said once. -/
theorem storeBytes_stale_eq (s : State) (a : Word) (size : AccessSize) (v : Word) :
    (s.storeBytes a size v).stale =
      if size.bytes = 4 then
        rememberParcel s.mem (s.storeBytes a size v).mem (parcelOf a + 2)
          (rememberParcel s.mem (s.storeBytes a size v).mem (parcelOf a) s.stale)
      else rememberParcel s.mem (s.storeBytes a size v).mem (parcelOf a) s.stale := by
  cases size <;> rfl

/-- A store keeps the remembered parcels and adds only parcels memory held before it. -/
theorem storeBytes_stale (s : State) (a : Word) (size : AccessSize) (v : Word) (e : Nat × Half) :
    (e ∈ s.stale → e ∈ (s.storeBytes a size v).stale) ∧
      (e ∈ (s.storeBytes a size v).stale → e ∈ s.stale ∨ ∃ p : Word, e = (p.toNat, Memory.readHalf s.mem p)) := by
  have h1 := rememberParcel_stale s.mem (Memory.writeLE s.mem a size.bytes v) (parcelOf a) s.stale e
  have h2 := rememberParcel_stale s.mem (Memory.writeLE s.mem a size.bytes v) (parcelOf a + 2)
    (rememberParcel s.mem (Memory.writeLE s.mem a size.bytes v) (parcelOf a) s.stale) e
  unfold State.storeBytes
  dsimp only
  split
  · refine ⟨fun h => h2.1 (h1.1 h), fun h => ?_⟩
    rcases h2.2 h with h | h
    · exact (h1.2 h).imp id fun h => ⟨_, h⟩
    · exact .inr ⟨_, h⟩
  · exact ⟨h1.1, fun h => (h1.2 h).imp id fun h => ⟨_, h⟩⟩

/-- A store to memory answers the store result. -/
theorem store_memory {s : State} {a : Word} {size : AccessSize} (v n : Word) (h : s.storesMemory a size) :
    ∃ t, store s a size v n = .next t ∧ StoreResult s t a size.bytes v n := by
  refine ⟨(s.storeBytes a size v).advance n, by simp [store, memWrite_memory v h], ?_⟩
  constructor
  · intro k hk
    exact Memory.read_writeLE_same s.mem a _ v (by cases size <;> decide) k hk
  · intro b hb
    exact Memory.read_writeLE_other s.mem a b _ v hb
  · simp
  · intro r; simp
  · simp
  · constructor <;> simp
  · exact storeBytes_stale_eq s a size v
  · intro p hp hne
    rw [State.advance_stale, storeBytes_stale_eq]
    rcases hp with rfl | ⟨hn, rfl⟩
    · split
      · exact (rememberParcel_stale _ _ _ _ _).1 (rememberParcel_replaced _ hne)
      · exact rememberParcel_replaced _ hne
    · rw [if_pos hn]; exact rememberParcel_replaced _ hne

/-- Everything a store can answer. -/
theorem store_cases (s : State) (a : Word) (size : AccessSize) (v n : Word) :
    (∃ t, s.memWrite a size v = .ok t ∧ store s a size v n = .next (t.advance n)) ∨
    (∃ e, s.memWrite a size v = .raised e ∧ store s a size v n = .next (s.trapEntry e)) ∨
    (∃ r, s.memWrite a size v = .refused r ∧ store s a size v n = .refused r) := by
  unfold store
  cases s.memWrite a size v <;> simp

/-- A write of a register of the TCIP region changes the CLINT or the CLIC only. -/
theorem tcipStore_changes (s : State) (r : TcipReg) (size : AccessSize) (v : Word) :
    ∃ c d, s.tcipStore r size v = { s with clint := c, clic := d } := by
  cases r <;> exact ⟨_, _, rfl⟩

/-! ### Fetching -/

/-- Choosing a parcel draws at most one open value. -/
theorem chooseParcel_changes (s : State) (h : Half) (l : List Half) :
    ∃ d, (s.chooseParcel h l).2 = { s with draws := d } := by
  cases l <;> exact ⟨_, rfl⟩

/-- Filling a line changes the cache and the count of draws only. -/
theorem fillLine_changes (s : State) (a : Word) (v : LineView) :
    ∃ c d, s.fillLine a v = { s with icache := c, draws := d } := by
  unfold State.fillLine
  cases v <;> dsimp only
  · exact ⟨_, _, rfl⟩
  · split
    · exact ⟨_, _, rfl⟩
    · split <;> exact ⟨_, _, rfl⟩
  · split <;> exact ⟨_, _, rfl⟩

/-- Reading a parcel changes the cache and the count of draws only. -/
theorem parcelAt_changes (s : State) (a : Word) :
    ∃ c d, (s.parcelAt a).2 = { s with icache := c, draws := d } := by
  unfold State.parcelAt
  dsimp only
  split
  · dsimp only
    have h : ∀ t : State, (∃ d, t = { s with draws := d }) → ∀ v : LineView,
        ∃ c d, t.fillLine a v = { s with icache := c, draws := d } := by
      rintro _ ⟨d, rfl⟩ v
      obtain ⟨c', d', e⟩ := fillLine_changes { s with draws := d } a v
      exact ⟨c', d', e⟩
    apply h
    cases s.icache.view (lineOf a) <;> dsimp only
    · exact chooseParcel_changes _ _ _
    · split <;> exact chooseParcel_changes _ _ _
    · obtain ⟨d, e⟩ := chooseParcel_changes s.drawn (Memory.readHalf s.mem a)
        (Config.freeParcel s.draws :: s.staleParcels a (Memory.readHalf s.mem a))
      exact ⟨d, e⟩
  · obtain ⟨d, e⟩ := chooseParcel_changes s (Memory.readHalf s.mem a) (s.staleParcels a (Memory.readHalf s.mem a))
    exact ⟨_, _, e⟩

/-- Fetching a half changes the cache and the count of draws only. -/
theorem fetchHalf_changes {s t : State} {a : Word} {h : Half} (e : s.fetchHalf a = .ok (h, t)) :
    ∃ c d, t = { s with icache := c, draws := d } := by
  unfold State.fetchHalf at e
  split at e
  · simp at e
  · split at e
    · split at e <;> simp at e
    · split at e
      · simp at e
      · obtain ⟨c, d, e'⟩ := parcelAt_changes s a
        simp only [Access.ok.injEq] at e
        exact ⟨c, d, by rw [← e', e]⟩

/-- Fetching an instruction changes the cache and the count of draws only. -/
theorem fetch_changes (s : State) : ∃ c d, s.fetch.2 = { s with icache := c, draws := d } := by
  unfold State.fetch
  split
  · exact ⟨_, _, rfl⟩
  · exact ⟨_, _, rfl⟩
  · next p0 s1 h1 =>
    obtain ⟨c, d, rfl⟩ := fetchHalf_changes h1
    split
    · split
      · exact ⟨_, _, rfl⟩
      · exact ⟨_, _, rfl⟩
      · next p1 s2 h2 =>
        obtain ⟨c', d', rfl⟩ := fetchHalf_changes h2
        exact ⟨_, _, rfl⟩
    · exact ⟨_, _, rfl⟩

/-- With the cache out of use and no older parcel, a fetch reads memory and changes nothing. -/
theorem parcelAt_memory {s : State} {a : Word} (hc : s.usesIcache a = false)
    (hs : s.staleParcels a (Memory.readHalf s.mem a) = []) : s.parcelAt a = (Memory.readHalf s.mem a, s) := by
  simp [State.parcelAt, hc, hs, State.chooseParcel]

/-! ### Control registers -/

/-- A read changes the counters of draws and of MCPUID reads, and MCYCLE, only. -/
theorem csrRead_changes (s : State) (r : Csr) :
    ∃ c d n, (s.csrRead r).2 = { s with mcycle := c, draws := d, mcpuidNext := n } := by
  cases r <;> simp only [State.csrRead] <;> (try split) <;> exact ⟨_, _, _, rfl⟩

/-- A write changes the control registers, the counters, the PMP and the count of draws only. -/
theorem csrWrite_changes (s : State) (r : Csr) (v : Word) :
    ∃ c m i p d, s.csrWrite r v = { s with csr := c, mcycle := m, minstret := i, pmp := p, draws := d } := by
  cases r <;> simp only [State.csrWrite, State.writeMstatus, State.writeMcause, State.writePrevious, State.writeMexstatus,
    State.writePmpcfg, State.writePmpaddr] <;> (try split) <;> exact ⟨_, _, _, _, _, rfl⟩

/-- The CSR instructions outside machine mode raise IllegalInstruction. -/
theorem csrAccess_user {i : Instr} {rd : Reg} {n : BitVec 12} {op : CsrOp} {imm : Bool} {f : BitVec 5} {v : Word}
    {s : State} (h : s.priv = .user) : csrAccess i rd n op imm f v s = raiseIllegal s i := by
  simp [csrAccess, h]

/-- Everything a CSR instruction can answer. -/
theorem csrAccess_cases (i : Instr) (rd : Reg) (n : BitVec 12) (op : CsrOp) (imm : Bool) (f : BitVec 5) (v : Word)
    (s : State) :
    csrAccess i rd n op imm f v s = raiseIllegal s i ∨
    csrAccess i rd n op imm f v s = .refused .csrForm ∨
    (s.priv = .machine ∧ csr? n = some .mnxti ∧ imm = true ∧ op ≠ .write ∧
      csrAccess i rd n op imm f v s = .next (s.mnxtiAccess rd op v)) ∨
    (s.priv = .machine ∧ swapForm s.cfg rd op imm = true ∧
      ∃ swap, csrAccess i rd n op imm f v s = .next (s.scratchSwap swap rd v)) ∨
    (s.priv = .machine ∧ ∃ r, csr? n = some r ∧
      csrAccess i rd n op imm f v s = .next (s.csrExchange r rd op imm v (csrPerformsWrite s.cfg op f))) := by
  unfold csrAccess
  by_cases hp : s.priv = .machine
  · simp only [hp, ne_eq, not_true_eq_false, ↓reduceIte, true_and]
    cases hr : csr? n with
    | none => simp
    | some r =>
      cases r
      case mnxti =>
        dsimp only
        split
        · next h => simp at h; exact .inr (.inr (.inl ⟨rfl, h.1, h.2, rfl⟩))
        · exact .inr (.inl rfl)
      case mscratchcsw =>
        dsimp only
        split
        · next h => exact .inr (.inr (.inr (.inl ⟨h, _, rfl⟩)))
        · exact .inr (.inl rfl)
      case mscratchcswl =>
        dsimp only
        split
        · next h => exact .inr (.inr (.inr (.inl ⟨h, _, rfl⟩)))
        · exact .inr (.inl rfl)
      all_goals
        dsimp only
        split
        · exact .inl rfl
        · exact .inr (.inr (.inr (.inr ⟨_, rfl, rfl⟩)))
  · simp [hp]

/-- The conditional swap changes MSCRATCH, one register, the pc and the retired count only. -/
theorem scratchSwap_changes (s : State) (swap : Bool) (rd : Reg) (v : Word) :
    s.scratchSwap swap rd v =
      (({ s with csr := { s.csr with mscratch := if swap then v else s.csr.mscratch } } : State).setReg rd
        (if swap then s.csr.mscratch else v)).advance 4 := by
  cases swap <;> rfl

/-! ### The step -/

/-- Everything one step can do after the host's turn and the sampling. -/
theorem hartTurn_cases (s : State) :
    (s.debugMode = true ∧ s.hartTurn = .next s) ∨
    (s.debugMode = false ∧ s.locked = true ∧ (s.nmiPending && !s.inNmi) = true ∧
      s.hartTurn = .next { s.nmiEntry with lockupNmi := true }) ∨
    (s.debugMode = false ∧ s.locked = true ∧ (s.nmiPending && !s.inNmi) = false ∧ s.hartTurn = .next s) ∨
    (s.debugMode = false ∧ s.locked = false ∧ s.sleeping = true ∧ s.wakes = false ∧ s.hartTurn = .next s) ∨
    (s.debugMode = false ∧ s.locked = false ∧ (s.sleeping = true → s.wakes = true) ∧
      s.hartTurn = s.wakeUp.boundary) := by
  unfold State.hartTurn
  cases s.debugMode <;> cases s.locked <;> cases s.sleeping <;> cases s.wakes <;>
    cases (s.nmiPending && !s.inNmi) <;> simp

/-- Everything a boundary can do. -/
theorem boundary_cases (s : State) :
    ((s.nmiPending && !s.inNmi) = true ∧ s.boundary = .next s.nmiEntry) ∨
    ((s.nmiPending && !s.inNmi) = false ∧ ∃ x, s.interruptToTake = some x ∧ s.boundary = interruptEntry s x) ∨
    ((s.nmiPending && !s.inNmi) = false ∧ s.interruptToTake = none ∧ s.boundary = s.runInstruction) := by
  unfold State.boundary
  cases (s.nmiPending && !s.inNmi) <;> cases s.interruptToTake <;> simp

/-- Everything the instruction at the pc can do. -/
theorem runInstruction_cases (s : State) :
    (∃ e, s.fetch.1 = .raised e ∧ s.runInstruction = .next (s.fetch.2.trapEntry e)) ∨
    (∃ r, s.fetch.1 = .refused r ∧ s.runInstruction = .refused r) ∨
    (∃ code i, s.fetch.1 = .ok code ∧ decodeCode s.fetch.2.cfg code = .instr i ∧
      s.runInstruction = exec i s.fetch.2) ∨
    (∃ code, s.fetch.1 = .ok code ∧ decodeCode s.fetch.2.cfg code = .illegal ∧
      s.runInstruction = .next (s.fetch.2.trapEntry (.illegal code.toWord))) ∨
    (∃ code, s.fetch.1 = .ok code ∧ decodeCode s.fetch.2.cfg code = .constraint ∧
      s.runInstruction = .refused .rvcConstraint) := by
  unfold State.runInstruction
  obtain ⟨a, t⟩ := s.fetch
  cases a with
  | raised e => simp
  | refused r => simp
  | ok code => cases h : decodeCode t.cfg code <;> simp [h]

/-- Everything an interrupt entry can answer. -/
theorem interruptEntry_cases (s : State) (x : ClicSource) :
    (x.shv = false ∧ interruptEntry s x = .next { s.enterInterrupt x with pc := s.trapVector }) ∨
    (x.shv = true ∧ s.vectorFetch (s.vectorAddress x.id) = none ∧ interruptEntry s x = .refused .vectorFetch) ∨
    (x.shv = true ∧ ∃ w, s.vectorFetch (s.vectorAddress x.id) = some w ∧ ∃ t, interruptEntry s x = .next t ∧
      t.pc = w &&& 0xFFFFFFFE ∧ t.priv = .machine ∧ t.csr.cause.minhv = false ∧
      t.csr = { (s.enterInterrupt x).csr with cause := { (s.enterInterrupt x).csr.cause with minhv := false } } ∧
      t.clic = (s.setSource x.id ClicSource.acknowledge).clic ∧ t.regs = s.regs ∧ t.mem = s.mem) := by
  unfold interruptEntry
  cases x.shv
  · simp
  · cases s.vectorFetch (s.vectorAddress x.id) <;> simp

/-- Everything the step can do: a fault of the configuration, a refusal of the host's turn, or the hart's turn. -/
theorem step_cases (s : State) :
    (busWindowLegal s.cfg = false ∧ step s = .fault .busWindow) ∨
    (busWindowLegal s.cfg = true ∧ busOverlap s.cfg = true ∧ step s = .fault .busOverlap) ∨
    (busWindowLegal s.cfg = true ∧ busOverlap s.cfg = false ∧
      ((∃ r, s.hostTurn = .error r ∧ step s = .refused r) ∨
        ∃ t, s.hostTurn = .ok t ∧ step s = t.sample.hartTurn)) := by
  unfold step State.cycle
  cases busWindowLegal s.cfg <;> cases busOverlap s.cfg <;> cases s.hostTurn <;> simp

/-- Where the host does nothing, the step is the hart's turn on the sampled state. -/
theorem step_quiet {s : State} (h : s.quiet) : step s = s.sample.hartTurn := by
  obtain ⟨h1, h2, h3⟩ := h
  simp [step, State.cycle, State.hostTurn, h1, h2, h3]

/-- Where the host does nothing and the core runs, the step is items 4 to 6 of the boundary on the sampled state. -/
theorem step_running {s : State} (h : s.quiet) (r : s.running) : step s = s.sample.boundary := by
  obtain ⟨h1, h2, h3⟩ := r
  have locked : s.sample.locked = false := h2
  simp only [step_quiet h, State.hartTurn, show s.sample.debugMode = false from h1, locked,
    show s.sample.sleeping = false from h3, State.wakeUp]
  simp

/-- What MPP takes from a value that is no mode of this core. -/
theorem legalMpp_illegal {s : State} {b : BitVec 2} (h : illegalMpp s.cfg b) : MppAfterIllegal s (s.legalMpp b) := by
  have notMachine : b ≠ 3#2 := by rcases h with rfl | rfl | ⟨rfl, _⟩ <;> decide
  have notUser : ¬ (b = 0#2 ∧ s.cfg.hasUmode = true) := by rcases h with rfl | rfl | ⟨rfl, h⟩ <;> simp_all
  unfold MppAfterIllegal State.legalMpp
  rw [if_neg notMachine, if_neg notUser]
  cases s.cfg.mppIllegalWrite <;> simp
  intro h; simp [h]

/-- Edges of an earlier step do not matter to the sampling. -/
@[simp] theorem forgetEdges_sample (s : State) : s.forgetEdges.sample = s.sample := by
  simp [State.sample, State.forgetEdges, Function.comp_def]
  intro _ _; rfl

/-- The bits of an address that is 0 below bit 20. -/
theorem highBits_extract (w : BitVec 12) :
    (w.setWidth 32 <<< 20).extractLsb' 20 12 = w ∧ (w.setWidth 32 <<< 20).extractLsb' 28 4 = w.extractLsb' 8 4 := by
  constructor <;> ext i hi
  · simp [show 20 + i < 32 by omega, BitVec.getLsbD_eq_getElem hi]
  · simp [show ¬ (28 + i < 20) by omega, show 28 + i - 20 = 8 + i by omega, show 28 + i < 32 by omega]

theorem window_meets_iff (b m : BitVec 12) : (0xE00#12 ^^^ b) &&& m &&& 0xF00#12 = 0#12 ↔
    ∃ w : BitVec 12, w.extractLsb' 8 4 = 0xE#4 ∧ w &&& m = b &&& m := by
  constructor
  · intro h
    refine ⟨0xE00#12 ||| (b &&& 0x0FF#12), ?_, ?_⟩
    · ext i hi
      rcases i with _ | _ | _ | _ | i <;> first | omega | simp
    · ext i hi
      have := congrArg (fun b => b.getLsbD i) h
      simp only [BitVec.getLsbD_and, BitVec.getLsbD_xor] at this
      rw [BitVec.getElem_and, BitVec.getElem_and, BitVec.getElem_or, BitVec.getElem_and]
      rcases i with _ | _ | _ | _ | _ | _ | _ | _ | _ | _ | _ | _ | i <;> first | omega | (simp at this ⊢ <;> grind)
  · rintro ⟨w, h1, h2⟩
    ext i hi
    have e1 := congrArg (fun b => b.getLsbD (i - 8)) h1
    have e2 := congrArg (fun b => b.getLsbD i) h2
    rcases i with _ | _ | _ | _ | _ | _ | _ | _ | _ | _ | _ | _ | i <;>
      first | omega | (simp at e1 e2 ⊢ <;> (try rw [e1] at e2) <;> grind)

/-- The bus window meets the TCIP region just where some address is in both (20 R133). -/
theorem busOverlap_iff (c : Config) : busOverlap c = true ↔ ∃ a, inTcip a = true ∧ inBusWindow c a = true := by
  unfold busOverlap inTcip inBusWindow
  simp only [beq_iff_eq]
  rw [window_meets_iff]
  constructor
  · rintro ⟨w, h1, h2⟩
    exact ⟨_, by rw [(highBits_extract w).2, h1], by rw [(highBits_extract w).1, h2]⟩
  · rintro ⟨a, h1, h2⟩
    refine ⟨_, ?_, h2⟩
    rw [← h1]
    ext i hi
    simp [show 20 + (8 + i) = 28 + i by omega, show 8 + i < 12 by omega]

/-- Without a host event the host's turn changes nothing. -/
theorem hostTurn_nil {s : State} (h : s.schedule = []) : s.hostTurn = .ok s := by
  unfold State.hostTurn; rw [h]

end Sys2Proof.Machine
end

