-- ==== Sys2Proof/Laws/Exec.lean ====
section
/-! SUPPORT. Everything that executing one instruction can do, said once: `ExecEffect` lists the kinds of next state, and
`exec_effect` says that every next state of `exec` is one of them. -/

namespace Sys2Proof.Machine

/-- The kinds of next state an instruction can give. -/
inductive ExecEffect (i : Instr) (s : State) : State → Prop
  /-- a register is written and the pc moves by an even distance -/
  | compute (rd : Reg) (v d : Word) (even : d.getLsbD 0 = false) : ExecEffect i s ((s.setReg rd v).retire (s.pc + d))
  /-- a register is written and the pc is an even register target -/
  | jump (rd : Reg) (v target : Word) : ExecEffect i s ((s.setReg rd v).retire (evenTarget target))
  /-- a store that the access primitive let through -/
  | store (a : Word) (size : AccessSize) (v n : Word) (u : State) (done : s.memWrite a size v = .ok u)
      (even : n.getLsbD 0 = false) : ExecEffect i s (u.advance n)
  /-- an exception -/
  | trap (e : Exc) : ExecEffect i s (s.trapEntry e)
  /-- the instruction cache and the remembered parcels change -/
  | cache (c : Icache) (l : List (Nat × Half)) : ExecEffect i s (({ s with icache := c, stale := l } : State).advance 4)
  /-- debug mode is entered -/
  | debug : ExecEffect i s { s with debugMode := true }
  /-- MRET -/
  | trapReturn (mode : s.priv = .machine) (is : i = .mret) (nmi : s.inNmi = false) : ExecEffect i s s.trapReturn
  | nmiReturn (mode : s.priv = .machine) (is : i = .mret) (nmi : s.inNmi = true) : ExecEffect i s s.nmiReturn
  /-- WFI -/
  | wait (mode : s.priv = .machine) : ExecEffect i s { s.advance 4 with sleeping := true }
  /-- the CSR instructions -/
  | mnxti (mode : s.priv = .machine) (rd : Reg) (op : CsrOp) (v : Word) : ExecEffect i s (s.mnxtiAccess rd op v)
  | scratch (mode : s.priv = .machine) (swap : Bool) (rd : Reg) (v : Word) : ExecEffect i s (s.scratchSwap swap rd v)
  | csr (mode : s.priv = .machine) (r : Csr) (rd : Reg) (op : CsrOp) (imm : Bool) (v : Word) (performs : Bool) :
      ExecEffect i s (s.csrExchange r rd op imm v performs)

theorem ExecEffect.of_retire {i : Instr} {s : State} (d : Word) (even : d.getLsbD 0 = false) :
    ExecEffect i s (s.retire (s.pc + d)) := by
  have := ExecEffect.compute (i := i) (s := s) 0 0 d even
  rwa [State.setReg_zero] at this

theorem setAdvance_effect {i : Instr} {s t : State} {rd : Reg} {v n : Word} (even : n.getLsbD 0 = false)
    (h : setAdvance s rd v n = .next t) : ExecEffect i s t := by
  simp only [setAdvance, Host.Outcome.next.injEq] at h
  subst h
  have := ExecEffect.compute (i := i) (s := s) rd v n even
  simpa [State.advance] using this

theorem load_effect {i : Instr} {s t : State} {rd : Reg} {a n : Word} {size : AccessSize} {f : Word → Word}
    (even : n.getLsbD 0 = false) (h : load s rd a size f n = .next t) : ExecEffect i s t := by
  rcases load_cases s rd a size f n with ⟨v, _, e⟩ | ⟨x, _, e⟩ | ⟨r, _, e⟩ <;> rw [e] at h
  · exact setAdvance_effect even h
  · injection h with h; subst h; exact .trap x
  · cases h

theorem store_effect {i : Instr} {s t : State} {a v n : Word} {size : AccessSize}
    (even : n.getLsbD 0 = false) (h : store s a size v n = .next t) : ExecEffect i s t := by
  rcases store_cases s a size v n with ⟨u, e', e⟩ | ⟨x, _, e⟩ | ⟨r, _, e⟩ <;> rw [e] at h
  · injection h with h; subst h; exact .store a size v n u e' even
  · injection h with h; subst h; exact .trap x
  · cases h

theorem branch_effect {i : Instr} {s t : State} {b : Bool} {o n : Word} (ho : o.getLsbD 0 = false)
    (hn : n.getLsbD 0 = false) (h : branch s b o n = .next t) : ExecEffect i s t := by
  simp only [branch, Host.Outcome.next.injEq] at h
  subst h
  cases b
  · exact .of_retire n hn
  · exact .of_retire o ho

theorem jumpLink_effect {i : Instr} {s t : State} {rd : Reg} {target n : Word}
    (ht : (∃ d : Word, d.getLsbD 0 = false ∧ target = s.pc + d) ∨ ∃ v, target = evenTarget v)
    (h : jumpLink s rd target n = .next t) : ExecEffect i s t := by
  simp only [jumpLink, Host.Outcome.next.injEq] at h
  subst h
  rcases ht with ⟨d, hd, rfl⟩ | ⟨v, rfl⟩
  · exact .compute rd _ d hd
  · exact .jump rd _ v

theorem csrAccess_effect {i : Instr} {s t : State} {rd : Reg} {n : BitVec 12} {op : CsrOp} {imm : Bool} {f : BitVec 5}
    {v : Word} (h : csrAccess i rd n op imm f v s = .next t) : ExecEffect i s t := by
  rcases csrAccess_cases i rd n op imm f v s with e | e | ⟨m, _, _, _, e⟩ | ⟨m, _, _, e⟩ | ⟨m, r, _, e⟩ <;>
    rw [e] at h
  · injection h with h; subst h; exact .trap _
  · cases h
  · injection h with h; subst h; exact .mnxti m _ _ _
  · injection h with h; subst h; exact .scratch m _ _ _
  · injection h with h; subst h; exact .csr m _ _ _ _ _ _

theorem mulDiv_effect {i j : Instr} {s t : State} {rd : Reg} {v : Word} (h : mulDiv j rd v s = .next t) :
    ExecEffect i s t := by
  unfold mulDiv at h
  split at h
  · exact setAdvance_effect (by decide) h
  · injection h with h; subst h; exact .trap _

theorem breakpoint_effect {i : Instr} {s t : State} (h : breakpoint s = .next t) : ExecEffect i s t := by
  unfold breakpoint at h
  split at h <;> (injection h with h; subst h)
  · exact .debug
  · exact .trap _

/-- A halved offset with its 0 bit appended and extended is even. -/
theorem even_signExtend {n : Nat} (imm : BitVec n) : ((imm ++ 0#1).signExtend 32).getLsbD 0 = false := by
  rw [BitVec.getLsbD_signExtend]
  have : (imm ++ 0#1).getLsbD 0 = false := by rw [BitVec.getLsbD_append]; simp
  simp only [this]
  simp

/-- Every next state of `exec` is of one of the kinds. -/
theorem exec_effect {i : Instr} {s t : State} (h : exec i s = .next t) : ExecEffect i s t := by
  cases i <;> simp only [exec] at h
  case jal => exact jumpLink_effect (.inl ⟨_, even_signExtend _, rfl⟩) h
  case jalr => exact jumpLink_effect (.inr ⟨_, rfl⟩) h
  case cJal => exact jumpLink_effect (.inl ⟨_, even_signExtend _, rfl⟩) h
  case cJalr => exact jumpLink_effect (.inr ⟨_, rfl⟩) h
  case cJ => injection h with h; subst h; exact .of_retire _ (even_signExtend _)
  case cJr rs1 =>
    injection h with h; subst h
    have := ExecEffect.jump (i := .cJr rs1) (s := s) 0 0 (s.reg rs1)
    rwa [State.setReg_zero] at this
  case cNop => injection h with h; subst h; exact .of_retire 2 (by decide)
  case fence => injection h with h; subst h; exact .of_retire 4 (by decide)
  case fenceI => injection h with h; subst h; exact .cache _ _
  case ecall => injection h with h; subst h; exact .trap _
  case mret =>
    unfold execMret at h
    split at h
    · injection h with h; subst h; exact .trap _
    · next hp =>
      split at h <;> (injection h with h; subst h)
      · next hn => exact .nmiReturn (by simpa using hp) rfl hn
      · next hn => exact .trapReturn (by simpa using hp) rfl (by simpa using hn)
  case wfi =>
    unfold execWfi at h
    split at h <;> (injection h with h; subst h)
    · exact .trap _
    · next hp => exact .wait (by simpa using hp)
  case icacheIall =>
    unfold execIcacheIall at h
    split at h <;> (injection h with h; subst h)
    · exact .cache _ s.stale
    · exact .trap _
  case icacheIpa =>
    unfold execIcacheIpa at h
    split at h <;> (injection h with h; subst h)
    · exact .cache _ s.stale
    · exact .trap _
  all_goals first
    | exact setAdvance_effect (by decide) h
    | exact load_effect (by decide) h
    | exact store_effect (by decide) h
    | exact branch_effect (even_signExtend _) (by decide) h
    | exact csrAccess_effect h
    | exact mulDiv_effect h
    | exact breakpoint_effect h

end Sys2Proof.Machine
end

