-- ==== Sys2Proof/Laws/PerInstr.lean ====
section
/-! SUPPORT. One statement for every instruction, proved constructor by constructor: the length that the two low bits of its
code give is the length it has (30 R181). -/

namespace Sys2Proof.Laws

/-- The two low bits of the code are 11 exactly for the 32-bit instructions (30 R181). -/
def Encodes.Statement (i : Instr) : Prop :=
  match encode i with
  | .c16 h => h.extractLsb' 0 2 ≠ 3#2
  | .c32 w => w.extractLsb' 0 2 = 3#2

theorem codeOf32 {n m : Nat} {a : BitVec n} {b : BitVec m} {w : Word} (h : n + m = 32) (hm : 2 ≤ m)
    (hw : w = (a ++ b).cast h) (hb : b.extractLsb' 0 2 = 3#2) : w.extractLsb' 0 2 = 3#2 := by
  have e : ((a ++ b).cast h).extractLsb' 0 2 = (a ++ b).extractLsb' 0 2 := by
    apply BitVec.eq_of_toNat_eq; rw [extract_toNat, extract_toNat, BitVec.toNat_cast]
  rw [hw, e, low_of_word a b hm, hb]

theorem codeOf16 {n : Nat} {a : BitVec n} {b : BitVec 2} {x : Half} (h : n + 2 = 16)
    (hx : x = (a ++ b).cast h) (hb : b ≠ 3#2) : x.extractLsb' 0 2 ≠ 3#2 := by
  have e : ((a ++ b).cast h).extractLsb' 0 2 = (a ++ b).extractLsb' 0 2 := by
    apply BitVec.eq_of_toNat_eq; rw [extract_toNat, extract_toNat, BitVec.toNat_cast]
  rw [hx, e, low_of_word a b (by decide), show b.extractLsb' 0 2 = b from extract_all b]
  exact hb

theorem Encodes.lui (rd : Reg) (imm20 : BitVec 20) : Encodes.Statement (.lui rd imm20) := by
  exact codeOf32 (a := _) (b := _) rfl (by decide) rfl (by decide)
theorem Encodes.auipc (rd : Reg) (imm20 : BitVec 20) : Encodes.Statement (.auipc rd imm20) := by
  exact codeOf32 (a := _) (b := _) rfl (by decide) rfl (by decide)
theorem Encodes.jal (rd : Reg) (imm20 : BitVec 20) : Encodes.Statement (.jal rd imm20) := by
  exact codeOf32 (a := _) (b := _) rfl (by decide) rfl (by decide)
theorem Encodes.jalr (rd : Reg) (rs1 : Reg) (imm12 : BitVec 12) : Encodes.Statement (.jalr rd rs1 imm12) := by
  exact codeOf32 (a := _) (b := _) rfl (by decide) rfl (by decide)
theorem Encodes.beq (rs1 : Reg) (rs2 : Reg) (imm12 : BitVec 12) : Encodes.Statement (.beq rs1 rs2 imm12) := by
  exact codeOf32 (a := _) (b := _) rfl (by decide) rfl (by decide)
theorem Encodes.bne (rs1 : Reg) (rs2 : Reg) (imm12 : BitVec 12) : Encodes.Statement (.bne rs1 rs2 imm12) := by
  exact codeOf32 (a := _) (b := _) rfl (by decide) rfl (by decide)
theorem Encodes.blt (rs1 : Reg) (rs2 : Reg) (imm12 : BitVec 12) : Encodes.Statement (.blt rs1 rs2 imm12) := by
  exact codeOf32 (a := _) (b := _) rfl (by decide) rfl (by decide)
theorem Encodes.bge (rs1 : Reg) (rs2 : Reg) (imm12 : BitVec 12) : Encodes.Statement (.bge rs1 rs2 imm12) := by
  exact codeOf32 (a := _) (b := _) rfl (by decide) rfl (by decide)
theorem Encodes.bltu (rs1 : Reg) (rs2 : Reg) (imm12 : BitVec 12) : Encodes.Statement (.bltu rs1 rs2 imm12) := by
  exact codeOf32 (a := _) (b := _) rfl (by decide) rfl (by decide)
theorem Encodes.bgeu (rs1 : Reg) (rs2 : Reg) (imm12 : BitVec 12) : Encodes.Statement (.bgeu rs1 rs2 imm12) := by
  exact codeOf32 (a := _) (b := _) rfl (by decide) rfl (by decide)
theorem Encodes.lb (rd : Reg) (rs1 : Reg) (imm12 : BitVec 12) : Encodes.Statement (.lb rd rs1 imm12) := by
  exact codeOf32 (a := _) (b := _) rfl (by decide) rfl (by decide)
theorem Encodes.lh (rd : Reg) (rs1 : Reg) (imm12 : BitVec 12) : Encodes.Statement (.lh rd rs1 imm12) := by
  exact codeOf32 (a := _) (b := _) rfl (by decide) rfl (by decide)
theorem Encodes.lw (rd : Reg) (rs1 : Reg) (imm12 : BitVec 12) : Encodes.Statement (.lw rd rs1 imm12) := by
  exact codeOf32 (a := _) (b := _) rfl (by decide) rfl (by decide)
theorem Encodes.lbu (rd : Reg) (rs1 : Reg) (imm12 : BitVec 12) : Encodes.Statement (.lbu rd rs1 imm12) := by
  exact codeOf32 (a := _) (b := _) rfl (by decide) rfl (by decide)
theorem Encodes.lhu (rd : Reg) (rs1 : Reg) (imm12 : BitVec 12) : Encodes.Statement (.lhu rd rs1 imm12) := by
  exact codeOf32 (a := _) (b := _) rfl (by decide) rfl (by decide)
theorem Encodes.sb (rs2 : Reg) (rs1 : Reg) (imm12 : BitVec 12) : Encodes.Statement (.sb rs2 rs1 imm12) := by
  exact codeOf32 (a := _) (b := _) rfl (by decide) rfl (by decide)
theorem Encodes.sh (rs2 : Reg) (rs1 : Reg) (imm12 : BitVec 12) : Encodes.Statement (.sh rs2 rs1 imm12) := by
  exact codeOf32 (a := _) (b := _) rfl (by decide) rfl (by decide)
theorem Encodes.sw (rs2 : Reg) (rs1 : Reg) (imm12 : BitVec 12) : Encodes.Statement (.sw rs2 rs1 imm12) := by
  exact codeOf32 (a := _) (b := _) rfl (by decide) rfl (by decide)
theorem Encodes.addi (rd : Reg) (rs1 : Reg) (imm12 : BitVec 12) : Encodes.Statement (.addi rd rs1 imm12) := by
  exact codeOf32 (a := _) (b := _) rfl (by decide) rfl (by decide)
theorem Encodes.slti (rd : Reg) (rs1 : Reg) (imm12 : BitVec 12) : Encodes.Statement (.slti rd rs1 imm12) := by
  exact codeOf32 (a := _) (b := _) rfl (by decide) rfl (by decide)
theorem Encodes.sltiu (rd : Reg) (rs1 : Reg) (imm12 : BitVec 12) : Encodes.Statement (.sltiu rd rs1 imm12) := by
  exact codeOf32 (a := _) (b := _) rfl (by decide) rfl (by decide)
theorem Encodes.xori (rd : Reg) (rs1 : Reg) (imm12 : BitVec 12) : Encodes.Statement (.xori rd rs1 imm12) := by
  exact codeOf32 (a := _) (b := _) rfl (by decide) rfl (by decide)
theorem Encodes.ori (rd : Reg) (rs1 : Reg) (imm12 : BitVec 12) : Encodes.Statement (.ori rd rs1 imm12) := by
  exact codeOf32 (a := _) (b := _) rfl (by decide) rfl (by decide)
theorem Encodes.andi (rd : Reg) (rs1 : Reg) (imm12 : BitVec 12) : Encodes.Statement (.andi rd rs1 imm12) := by
  exact codeOf32 (a := _) (b := _) rfl (by decide) rfl (by decide)
theorem Encodes.slli (rd : Reg) (rs1 : Reg) (shamt5 : BitVec 5) : Encodes.Statement (.slli rd rs1 shamt5) := by
  exact codeOf32 (a := _) (b := _) rfl (by decide) rfl (by decide)
theorem Encodes.srli (rd : Reg) (rs1 : Reg) (shamt5 : BitVec 5) : Encodes.Statement (.srli rd rs1 shamt5) := by
  exact codeOf32 (a := _) (b := _) rfl (by decide) rfl (by decide)
theorem Encodes.srai (rd : Reg) (rs1 : Reg) (shamt5 : BitVec 5) : Encodes.Statement (.srai rd rs1 shamt5) := by
  exact codeOf32 (a := _) (b := _) rfl (by decide) rfl (by decide)
theorem Encodes.add (rd : Reg) (rs1 : Reg) (rs2 : Reg) : Encodes.Statement (.add rd rs1 rs2) := by
  exact codeOf32 (a := _) (b := _) rfl (by decide) rfl (by decide)
theorem Encodes.sub (rd : Reg) (rs1 : Reg) (rs2 : Reg) : Encodes.Statement (.sub rd rs1 rs2) := by
  exact codeOf32 (a := _) (b := _) rfl (by decide) rfl (by decide)
theorem Encodes.sll (rd : Reg) (rs1 : Reg) (rs2 : Reg) : Encodes.Statement (.sll rd rs1 rs2) := by
  exact codeOf32 (a := _) (b := _) rfl (by decide) rfl (by decide)
theorem Encodes.slt (rd : Reg) (rs1 : Reg) (rs2 : Reg) : Encodes.Statement (.slt rd rs1 rs2) := by
  exact codeOf32 (a := _) (b := _) rfl (by decide) rfl (by decide)
theorem Encodes.sltu (rd : Reg) (rs1 : Reg) (rs2 : Reg) : Encodes.Statement (.sltu rd rs1 rs2) := by
  exact codeOf32 (a := _) (b := _) rfl (by decide) rfl (by decide)
theorem Encodes.xor (rd : Reg) (rs1 : Reg) (rs2 : Reg) : Encodes.Statement (.xor rd rs1 rs2) := by
  exact codeOf32 (a := _) (b := _) rfl (by decide) rfl (by decide)
theorem Encodes.srl (rd : Reg) (rs1 : Reg) (rs2 : Reg) : Encodes.Statement (.srl rd rs1 rs2) := by
  exact codeOf32 (a := _) (b := _) rfl (by decide) rfl (by decide)
theorem Encodes.sra (rd : Reg) (rs1 : Reg) (rs2 : Reg) : Encodes.Statement (.sra rd rs1 rs2) := by
  exact codeOf32 (a := _) (b := _) rfl (by decide) rfl (by decide)
theorem Encodes.or (rd : Reg) (rs1 : Reg) (rs2 : Reg) : Encodes.Statement (.or rd rs1 rs2) := by
  exact codeOf32 (a := _) (b := _) rfl (by decide) rfl (by decide)
theorem Encodes.and (rd : Reg) (rs1 : Reg) (rs2 : Reg) : Encodes.Statement (.and rd rs1 rs2) := by
  exact codeOf32 (a := _) (b := _) rfl (by decide) rfl (by decide)
theorem Encodes.mul (rd : Reg) (rs1 : Reg) (rs2 : Reg) : Encodes.Statement (.mul rd rs1 rs2) := by
  exact codeOf32 (a := _) (b := _) rfl (by decide) rfl (by decide)
theorem Encodes.mulh (rd : Reg) (rs1 : Reg) (rs2 : Reg) : Encodes.Statement (.mulh rd rs1 rs2) := by
  exact codeOf32 (a := _) (b := _) rfl (by decide) rfl (by decide)
theorem Encodes.mulhsu (rd : Reg) (rs1 : Reg) (rs2 : Reg) : Encodes.Statement (.mulhsu rd rs1 rs2) := by
  exact codeOf32 (a := _) (b := _) rfl (by decide) rfl (by decide)
theorem Encodes.mulhu (rd : Reg) (rs1 : Reg) (rs2 : Reg) : Encodes.Statement (.mulhu rd rs1 rs2) := by
  exact codeOf32 (a := _) (b := _) rfl (by decide) rfl (by decide)
theorem Encodes.div (rd : Reg) (rs1 : Reg) (rs2 : Reg) : Encodes.Statement (.div rd rs1 rs2) := by
  exact codeOf32 (a := _) (b := _) rfl (by decide) rfl (by decide)
theorem Encodes.divu (rd : Reg) (rs1 : Reg) (rs2 : Reg) : Encodes.Statement (.divu rd rs1 rs2) := by
  exact codeOf32 (a := _) (b := _) rfl (by decide) rfl (by decide)
theorem Encodes.rem (rd : Reg) (rs1 : Reg) (rs2 : Reg) : Encodes.Statement (.rem rd rs1 rs2) := by
  exact codeOf32 (a := _) (b := _) rfl (by decide) rfl (by decide)
theorem Encodes.remu (rd : Reg) (rs1 : Reg) (rs2 : Reg) : Encodes.Statement (.remu rd rs1 rs2) := by
  exact codeOf32 (a := _) (b := _) rfl (by decide) rfl (by decide)
theorem Encodes.fence (pred : BitVec 4) (succ : BitVec 4) : Encodes.Statement (.fence pred succ) := by
  exact codeOf32 (a := _) (b := _) rfl (by decide) rfl (by decide)
theorem Encodes.fenceI : Encodes.Statement (.fenceI) := by
  show BitVec.extractLsb' 0 2 _ = 3#2; decide
theorem Encodes.ecall : Encodes.Statement (.ecall) := by
  show BitVec.extractLsb' 0 2 _ = 3#2; decide
theorem Encodes.ebreak : Encodes.Statement (.ebreak) := by
  show BitVec.extractLsb' 0 2 _ = 3#2; decide
theorem Encodes.mret : Encodes.Statement (.mret) := by
  show BitVec.extractLsb' 0 2 _ = 3#2; decide
theorem Encodes.wfi : Encodes.Statement (.wfi) := by
  show BitVec.extractLsb' 0 2 _ = 3#2; decide
theorem Encodes.csrrw (rd : Reg) (csr : BitVec 12) (rs1 : Reg) : Encodes.Statement (.csrrw rd csr rs1) := by
  exact codeOf32 (a := _) (b := _) rfl (by decide) rfl (by decide)
theorem Encodes.csrrs (rd : Reg) (csr : BitVec 12) (rs1 : Reg) : Encodes.Statement (.csrrs rd csr rs1) := by
  exact codeOf32 (a := _) (b := _) rfl (by decide) rfl (by decide)
theorem Encodes.csrrc (rd : Reg) (csr : BitVec 12) (rs1 : Reg) : Encodes.Statement (.csrrc rd csr rs1) := by
  exact codeOf32 (a := _) (b := _) rfl (by decide) rfl (by decide)
theorem Encodes.csrrwi (rd : Reg) (csr : BitVec 12) (imm5 : BitVec 5) : Encodes.Statement (.csrrwi rd csr imm5) := by
  exact codeOf32 (a := _) (b := _) rfl (by decide) rfl (by decide)
theorem Encodes.csrrsi (rd : Reg) (csr : BitVec 12) (imm5 : BitVec 5) : Encodes.Statement (.csrrsi rd csr imm5) := by
  exact codeOf32 (a := _) (b := _) rfl (by decide) rfl (by decide)
theorem Encodes.csrrci (rd : Reg) (csr : BitVec 12) (imm5 : BitVec 5) : Encodes.Statement (.csrrci rd csr imm5) := by
  exact codeOf32 (a := _) (b := _) rfl (by decide) rfl (by decide)
theorem Encodes.icacheIall : Encodes.Statement (.icacheIall) := by
  show BitVec.extractLsb' 0 2 _ = 3#2; decide
theorem Encodes.icacheIpa (rs1 : Reg) : Encodes.Statement (.icacheIpa rs1) := by
  exact codeOf32 (a := _) (b := _) rfl (by decide) rfl (by decide)
theorem Encodes.cAddi4spn (rd : CReg) (nzuimm8 : BitVec 8) : Encodes.Statement (.cAddi4spn rd nzuimm8) := by
  exact codeOf16 (a := _) (b := _) rfl rfl (by decide)
theorem Encodes.cLw (rd : CReg) (rs1 : CReg) (uimm5 : BitVec 5) : Encodes.Statement (.cLw rd rs1 uimm5) := by
  exact codeOf16 (a := _) (b := _) rfl rfl (by decide)
theorem Encodes.cSw (rs2 : CReg) (rs1 : CReg) (uimm5 : BitVec 5) : Encodes.Statement (.cSw rs2 rs1 uimm5) := by
  exact codeOf16 (a := _) (b := _) rfl rfl (by decide)
theorem Encodes.cNop : Encodes.Statement (.cNop) := by
  show BitVec.extractLsb' 0 2 _ ≠ 3#2; decide
theorem Encodes.cAddi (rd : Reg) (nzimm6 : BitVec 6) : Encodes.Statement (.cAddi rd nzimm6) := by
  exact codeOf16 (a := _) (b := _) rfl rfl (by decide)
theorem Encodes.cJal (imm11 : BitVec 11) : Encodes.Statement (.cJal imm11) := by
  exact codeOf16 (a := _) (b := _) rfl rfl (by decide)
theorem Encodes.cLi (rd : Reg) (imm6 : BitVec 6) : Encodes.Statement (.cLi rd imm6) := by
  exact codeOf16 (a := _) (b := _) rfl rfl (by decide)
theorem Encodes.cAddi16sp (nzimm6 : BitVec 6) : Encodes.Statement (.cAddi16sp nzimm6) := by
  exact codeOf16 (a := _) (b := _) rfl rfl (by decide)
theorem Encodes.cLui (rd : Reg) (nzimm6 : BitVec 6) : Encodes.Statement (.cLui rd nzimm6) := by
  exact codeOf16 (a := _) (b := _) rfl rfl (by decide)
theorem Encodes.cSrli (rd : CReg) (shamt5 : BitVec 5) : Encodes.Statement (.cSrli rd shamt5) := by
  exact codeOf16 (a := _) (b := _) rfl rfl (by decide)
theorem Encodes.cSrai (rd : CReg) (shamt5 : BitVec 5) : Encodes.Statement (.cSrai rd shamt5) := by
  exact codeOf16 (a := _) (b := _) rfl rfl (by decide)
theorem Encodes.cAndi (rd : CReg) (imm6 : BitVec 6) : Encodes.Statement (.cAndi rd imm6) := by
  exact codeOf16 (a := _) (b := _) rfl rfl (by decide)
theorem Encodes.cSub (rd : CReg) (rs2 : CReg) : Encodes.Statement (.cSub rd rs2) := by
  exact codeOf16 (a := _) (b := _) rfl rfl (by decide)
theorem Encodes.cXor (rd : CReg) (rs2 : CReg) : Encodes.Statement (.cXor rd rs2) := by
  exact codeOf16 (a := _) (b := _) rfl rfl (by decide)
theorem Encodes.cOr (rd : CReg) (rs2 : CReg) : Encodes.Statement (.cOr rd rs2) := by
  exact codeOf16 (a := _) (b := _) rfl rfl (by decide)
theorem Encodes.cAnd (rd : CReg) (rs2 : CReg) : Encodes.Statement (.cAnd rd rs2) := by
  exact codeOf16 (a := _) (b := _) rfl rfl (by decide)
theorem Encodes.cJ (imm11 : BitVec 11) : Encodes.Statement (.cJ imm11) := by
  exact codeOf16 (a := _) (b := _) rfl rfl (by decide)
theorem Encodes.cBeqz (rs1 : CReg) (imm8 : BitVec 8) : Encodes.Statement (.cBeqz rs1 imm8) := by
  exact codeOf16 (a := _) (b := _) rfl rfl (by decide)
theorem Encodes.cBnez (rs1 : CReg) (imm8 : BitVec 8) : Encodes.Statement (.cBnez rs1 imm8) := by
  exact codeOf16 (a := _) (b := _) rfl rfl (by decide)
theorem Encodes.cSlli (rd : Reg) (shamt5 : BitVec 5) : Encodes.Statement (.cSlli rd shamt5) := by
  exact codeOf16 (a := _) (b := _) rfl rfl (by decide)
theorem Encodes.cLwsp (rd : Reg) (uimm6 : BitVec 6) : Encodes.Statement (.cLwsp rd uimm6) := by
  exact codeOf16 (a := _) (b := _) rfl rfl (by decide)
theorem Encodes.cJr (rs1 : Reg) : Encodes.Statement (.cJr rs1) := by
  exact codeOf16 (a := _) (b := _) rfl rfl (by decide)
theorem Encodes.cMv (rd : Reg) (rs2 : Reg) : Encodes.Statement (.cMv rd rs2) := by
  exact codeOf16 (a := _) (b := _) rfl rfl (by decide)
theorem Encodes.cEbreak : Encodes.Statement (.cEbreak) := by
  show BitVec.extractLsb' 0 2 _ ≠ 3#2; decide
theorem Encodes.cJalr (rs1 : Reg) : Encodes.Statement (.cJalr rs1) := by
  exact codeOf16 (a := _) (b := _) rfl rfl (by decide)
theorem Encodes.cAdd (rd : Reg) (rs2 : Reg) : Encodes.Statement (.cAdd rd rs2) := by
  exact codeOf16 (a := _) (b := _) rfl rfl (by decide)
theorem Encodes.cSwsp (rs2 : Reg) (uimm6 : BitVec 6) : Encodes.Statement (.cSwsp rs2 uimm6) := by
  exact codeOf16 (a := _) (b := _) rfl rfl (by decide)

end Sys2Proof.Laws
end

