-- ==== Sys2Proof/Tests/Slice0.lean ====
section
/-! SUPPORT. Tests. Every expected value is the worked example of the named rule of spec/40 to 46 or a row of spec/95 and
spec/96; the witness theorems show a state and operands that meet the hypotheses of a statement. -/

namespace Sys2Proof.Tests
open Sys2Proof Sys2Proof.Machine

/-! ### Helpers -/

/-- The state after reset with some registers set. -/
def withRegs (l : List (Reg × Word)) : State := l.foldl (fun s x => s.setReg x.1 x.2) State.reset

/-- ... and at a pc. -/
def atPc (pc : Word) (l : List (Reg × Word)) : State := { withRegs l with pc := pc }

/-- ... and with some bytes in memory. -/
def withBytes (s : State) (a : Word) (l : List Byte) : State :=
  (l.foldl (fun x b => ({ x.1 with mem := Memory.write x.1.mem x.2.toNat b }, x.2 + 1)) (s, a)).1

/-- The instruction answers a next state, and that state passes the check. -/
def after (i : Instr) (s : State) (check : State → Bool) : Bool :=
  match exec i s with
  | .next t => check t
  | .fault _ | .refused _ => false

/-- The same for one step. -/
def afterStep (s : State) (check : State → Bool) : Bool :=
  match step s with
  | .next t => check t
  | .fault _ | .refused _ => false

/-- A register has a value and the pc moved by the length. -/
def gives (i : Instr) (s : State) (rd : Reg) (v length : Word) : Bool :=
  after i s fun t => t.reg rd == v && t.pc == s.pc + length

/-- Only the pc is checked. -/
def goes (i : Instr) (s : State) (pc : Word) : Bool := after i s fun t => t.pc == pc

/-- The CSRs of a state, changed. -/
def withCsr (s : State) (f : Csrs → Csrs) : State := { s with csr := f s.csr }

/-- MTVEC.BASE (10 R46). -/
def withMtvec (s : State) (base : BitVec 26) : State := withCsr s fun c => { c with mtvecBase := base }

/-- User mode, with MSTATUS.MIE = 1 and MPP = user. -/
def inUser (s : State) : State :=
  { withCsr s fun c => { c with status := { mie := true, mpie := false, mpp := .user, mprv := false } } with
    priv := .user }

/-- Memory the examples of spec/42 load from: 0x1000..0x1003 = 11 22 33 84. -/
def loadState (base : Word) : State := withBytes (withRegs [(6, base)]) 0x1000 [0x11, 0x22, 0x33, 0x84]

/-! ### Well-formedness: an ill-formed term for each check -/

theorem test_illformed_terms :
    (Instr.cAddi4spn 2 0).wellFormed = false ∧ (Instr.cAddi 0 1).wellFormed = false ∧
    (Instr.cAddi 5 0).wellFormed = false ∧ (Instr.cLi 0 1).wellFormed = false ∧
    (Instr.cAddi16sp 0).wellFormed = false ∧ (Instr.cLui 0 1).wellFormed = false ∧
    (Instr.cLui 2 1).wellFormed = false ∧ (Instr.cLui 5 0).wellFormed = false ∧
    (Instr.cSrli 2 0).wellFormed = false ∧ (Instr.cSrai 2 0).wellFormed = false ∧
    (Instr.cSlli 0 1).wellFormed = false ∧ (Instr.cSlli 5 0).wellFormed = false ∧
    (Instr.cLwsp 0 1).wellFormed = false ∧ (Instr.cJr 0).wellFormed = false ∧
    (Instr.cMv 0 1).wellFormed = false ∧ (Instr.cMv 1 0).wellFormed = false ∧
    (Instr.cJalr 0).wellFormed = false ∧ (Instr.cAdd 0 1).wellFormed = false ∧
    (Instr.cAdd 1 0).wellFormed = false := by decide

theorem test_wellformed_terms :
    (Instr.cLui 5 0x20).wellFormed = true ∧ (Instr.cSwsp 0 0).wellFormed = true ∧
    (Instr.addi 0 0 0).wellFormed = true ∧ (Instr.cMv 1 2).wellFormed = true := by decide

/-! ### Decoding: the word of every row, from the examples of spec/40 to 46 -/

theorem test_decode_registers :
    decodeTableWord 32 0x002081B3 = some (.add 3 1 2) ∧ decodeTableWord 32 0x402081B3 = some (.sub 3 1 2) ∧
    decodeTableWord 32 0x002091B3 = some (.sll 3 1 2) ∧ decodeTableWord 32 0x0020A1B3 = some (.slt 3 1 2) ∧
    decodeTableWord 32 0x0020B1B3 = some (.sltu 3 1 2) ∧ decodeTableWord 32 0x0020C1B3 = some (.xor 3 1 2) ∧
    decodeTableWord 32 0x0020D1B3 = some (.srl 3 1 2) ∧ decodeTableWord 32 0x4020D1B3 = some (.sra 3 1 2) ∧
    decodeTableWord 32 0x0020E1B3 = some (.or 3 1 2) ∧ decodeTableWord 32 0x0020F1B3 = some (.and 3 1 2) := by decide

theorem test_decode_immediates :
    decodeTableWord 32 0xFFF30293 = some (.addi 5 6 0xFFF) ∧ decodeTableWord 32 0xFFF32293 = some (.slti 5 6 0xFFF) ∧
    decodeTableWord 32 0xFFF33293 = some (.sltiu 5 6 0xFFF) ∧ decodeTableWord 32 0xFFF34293 = some (.xori 5 6 0xFFF) ∧
    decodeTableWord 32 0x0F036293 = some (.ori 5 6 0x0F0) ∧ decodeTableWord 32 0x0FF37293 = some (.andi 5 6 0x0FF) ∧
    decodeTableWord 32 0x00431293 = some (.slli 5 6 4) ∧ decodeTableWord 32 0x00435293 = some (.srli 5 6 4) ∧
    decodeTableWord 32 0x40435293 = some (.srai 5 6 4) ∧ decodeTableWord 32 0x12345537 = some (.lui 10 0x12345) ∧
    decodeTableWord 32 0x00001517 = some (.auipc 10 1) := by decide

theorem test_decode_jumps :
    decodeTableWord 32 0x00208463 = some (.beq 1 2 4) ∧ decodeTableWord 32 0xFE209EE3 = some (.bne 1 2 0xFFE) ∧
    decodeTableWord 32 0x0020C863 = some (.blt 1 2 8) ∧ decodeTableWord 32 0xFE20DCE3 = some (.bge 1 2 0xFFC) ∧
    decodeTableWord 32 0x0020E663 = some (.bltu 1 2 6) ∧ decodeTableWord 32 0xFE20FDE3 = some (.bgeu 1 2 0xFFD) ∧
    decodeTableWord 32 0x100000EF = some (.jal 1 0x80) ∧ decodeTableWord 32 0x004280E7 = some (.jalr 1 5 4) := by decide

theorem test_decode_accesses :
    decodeTableWord 32 0x00330283 = some (.lb 5 6 3) ∧ decodeTableWord 32 0x00231283 = some (.lh 5 6 2) ∧
    decodeTableWord 32 0xFFC32283 = some (.lw 5 6 0xFFC) ∧ decodeTableWord 32 0x00334283 = some (.lbu 5 6 3) ∧
    decodeTableWord 32 0x00235283 = some (.lhu 5 6 2) ∧ decodeTableWord 32 0x005300A3 = some (.sb 5 6 1) ∧
    decodeTableWord 32 0x00531123 = some (.sh 5 6 2) ∧ decodeTableWord 32 0xFE532E23 = some (.sw 5 6 0xFFC) ∧
    decodeTableWord 32 0x7E532FA3 = some (.sw 5 6 0x7FF) ∧ decodeTableWord 32 0x80532023 = some (.sw 5 6 0x800) := by
  decide

theorem test_decode_multiply :
    decodeTableWord 32 0x022081B3 = some (.mul 3 1 2) ∧ decodeTableWord 32 0x022091B3 = some (.mulh 3 1 2) ∧
    decodeTableWord 32 0x0220A1B3 = some (.mulhsu 3 1 2) ∧ decodeTableWord 32 0x0220B1B3 = some (.mulhu 3 1 2) ∧
    decodeTableWord 32 0x0220C1B3 = some (.div 3 1 2) ∧ decodeTableWord 32 0x0220D1B3 = some (.divu 3 1 2) ∧
    decodeTableWord 32 0x0220E1B3 = some (.rem 3 1 2) ∧ decodeTableWord 32 0x0220F1B3 = some (.remu 3 1 2) := by decide

theorem test_decode_system :
    decodeTableWord 32 0x0120000F = some (.fence 1 2) ∧ decodeTableWord 32 0x0000100F = some .fenceI ∧
    decodeTableWord 32 0x00000073 = some .ecall ∧ decodeTableWord 32 0x00100073 = some .ebreak ∧
    decodeTableWord 32 0x30200073 = some .mret ∧ decodeTableWord 32 0x10500073 = some .wfi ∧
    decodeTableWord 32 0x340312F3 = some (.csrrw 5 0x340 6) ∧ decodeTableWord 32 0x30032073 = some (.csrrs 0 0x300 6) ∧
    decodeTableWord 32 0x300332F3 = some (.csrrc 5 0x300 6) ∧ decodeTableWord 32 0x340AD2F3 = some (.csrrwi 5 0x340 21) ∧
    decodeTableWord 32 0x30046073 = some (.csrrsi 0 0x300 8) ∧ decodeTableWord 32 0x300472F3 = some (.csrrci 5 0x300 8) ∧
    decodeTableWord 32 0x0100000B = some .icacheIall ∧ decodeTableWord 32 0x0385000B = some (.icacheIpa 10) := by decide

theorem test_decode_compressed_registers :
    decodeTableWord 16 0x952E = some (.cAdd 10 11) ∧ decodeTableWord 16 0x1575 = some (.cAddi 10 0x3D) ∧
    decodeTableWord 16 0x0028 = some (.cAddi4spn 2 2) ∧ decodeTableWord 16 0x713D = some (.cAddi16sp 0x3E) ∧
    decodeTableWord 16 0x8D6D = some (.cAnd 2 3) ∧ decodeTableWord 16 0x9941 = some (.cAndi 2 0x30) ∧
    decodeTableWord 16 0x557D = some (.cLi 10 0x3F) ∧ decodeTableWord 16 0x7501 = some (.cLui 10 0x20) ∧
    decodeTableWord 16 0x852E = some (.cMv 10 11) ∧ decodeTableWord 16 0x0001 = some .cNop ∧
    decodeTableWord 16 0x8D4D = some (.cOr 2 3) ∧ decodeTableWord 16 0x0512 = some (.cSlli 10 4) ∧
    decodeTableWord 16 0x8511 = some (.cSrai 2 4) ∧ decodeTableWord 16 0x8111 = some (.cSrli 2 4) ∧
    decodeTableWord 16 0x8D0D = some (.cSub 2 3) ∧ decodeTableWord 16 0x8D2D = some (.cXor 2 3) := by decide

theorem test_decode_compressed_others :
    decodeTableWord 16 0xC501 = some (.cBeqz 2 4) ∧ decodeTableWord 16 0xFD6D = some (.cBnez 2 0xFD) ∧
    decodeTableWord 16 0x9002 = some .cEbreak ∧ decodeTableWord 16 0xA801 = some (.cJ 8) ∧
    decodeTableWord 16 0x2005 = some (.cJal 16) ∧ decodeTableWord 16 0x3FF5 = some (.cJal 0x7FE) ∧
    decodeTableWord 16 0x9502 = some (.cJalr 10) ∧ decodeTableWord 16 0x8082 = some (.cJr 1) ∧
    decodeTableWord 16 0x41C8 = some (.cLw 2 3 1) ∧ decodeTableWord 16 0x4522 = some (.cLwsp 10 2) ∧
    decodeTableWord 16 0xC1C8 = some (.cSw 2 3 1) ∧ decodeTableWord 16 0xC42A = some (.cSwsp 10 2) := by decide

/-- The encoder writes the same words. -/
theorem test_encode_words :
    encode (.bne 1 2 0xFFE) = .c32 0xFE209EE3 ∧ encode (.jal 1 0x80) = .c32 0x100000EF ∧
    encode (.sw 5 6 0xFFC) = .c32 0xFE532E23 ∧ encode (.cJal 0x7FE) = .c16 0x3FF5 ∧
    encode (.cAddi16sp 0x3E) = .c16 0x713D ∧ encode (.cLw 2 3 1) = .c16 0x41C8 ∧
    encode (.cBnez 2 0xFD) = .c16 0xFD6D := by decide

/-- Table V10: words that are illegal. -/
theorem test_illegal_words :
    [0xFFFFFFFF, 0x00730833, 0x011302B3, 0x00082283, 0x01432023, 0x01830463, 0x0080086F, 0x00001FB7, 0x340812F3,
      0x02031293, 0x40031293, 0x00002063, 0x00001067, 0x00003003, 0x00006003, 0x00003023, 0x0000001B, 0x1000202F,
      0x00002007, 0x8330000F, 0x0000108F, 0x00200073, 0x10200073, 0x7B200073, 0x12000073, 0x000000F3,
      0x00004073].map (decodeTableWord 32) = List.replicate 27 none ∧
    [0x0000, 0x2000, 0x6000, 0x8000, 0xA000, 0xE000, 0x9C01, 0x2002, 0x6002, 0xA002, 0xE002, 0x8816].map
      (decodeTableWord 16) = List.replicate 12 none := by decide

/-! ### Integer instructions (40 R220 to R241) -/

theorem test_add : gives (.add 3 1 2) (withRegs [(1, 5), (2, 0xFFFFFFFE)]) 3 3 4 = true := by decide
theorem test_sub : gives (.sub 3 1 2) (withRegs [(1, 5), (2, 7)]) 3 0xFFFFFFFE 4 = true := by decide
theorem test_sll : gives (.sll 3 1 2) (withRegs [(1, 0x80000001), (2, 0x24)]) 3 0x10 4 = true := by decide
theorem test_slt : gives (.slt 3 1 2) (withRegs [(1, 0xFFFFFFFF), (2, 1)]) 3 1 4 = true := by decide
theorem test_sltu : gives (.sltu 3 1 2) (withRegs [(1, 0xFFFFFFFF), (2, 1)]) 3 0 4 = true := by decide
theorem test_xor : gives (.xor 3 1 2) (withRegs [(1, 0x0F0F0F0F), (2, 0x00FF00FF)]) 3 0x0FF00FF0 4 = true := by decide
theorem test_srl : gives (.srl 3 1 2) (withRegs [(1, 0x80000010), (2, 4)]) 3 0x08000001 4 = true := by decide
theorem test_sra : gives (.sra 3 1 2) (withRegs [(1, 0x80000010), (2, 4)]) 3 0xF8000001 4 = true := by decide
theorem test_or : gives (.or 3 1 2) (withRegs [(1, 0x0F0F0F0F), (2, 0x00FF00FF)]) 3 0x0FFF0FFF 4 = true := by decide
theorem test_and : gives (.and 3 1 2) (withRegs [(1, 0x0F0F0F0F), (2, 0x00FF00FF)]) 3 0x000F000F 4 = true := by decide
theorem test_addi : gives (.addi 5 6 0xFFF) (withRegs []) 5 0xFFFFFFFF 4 = true := by decide
theorem test_addi_x0 : gives (.addi 0 6 5) (withRegs [(6, 1)]) 0 0 4 = true := by decide
theorem test_slti : gives (.slti 5 6 0xFFF) (withRegs [(6, 0xFFFFFFFE)]) 5 1 4 = true := by decide
theorem test_sltiu : gives (.sltiu 5 6 0xFFF) (withRegs [(6, 0x1000)]) 5 1 4 = true := by decide
theorem test_sltiu_zero_extends :
    gives (.sltiu 5 6 0xFFF) { withRegs [(6, 0x1000)] with cfg := { Config.reference with sltiuZeroExtends := true } }
      5 0 4 = true := by decide
theorem test_xori : gives (.xori 5 6 0xFFF) (withRegs [(6, 0x12345678)]) 5 0xEDCBA987 4 = true := by decide
theorem test_ori : gives (.ori 5 6 0x0F0) (withRegs [(6, 0x12345608)]) 5 0x123456F8 4 = true := by decide
theorem test_andi : gives (.andi 5 6 0x0FF) (withRegs [(6, 0x12345678)]) 5 0x78 4 = true := by decide
theorem test_slli : gives (.slli 5 6 4) (withRegs [(6, 0x12345678)]) 5 0x23456780 4 = true := by decide
theorem test_srli : gives (.srli 5 6 4) (withRegs [(6, 0x92345678)]) 5 0x09234567 4 = true := by decide
theorem test_srai : gives (.srai 5 6 4) (withRegs [(6, 0x92345678)]) 5 0xF9234567 4 = true := by decide
theorem test_lui : gives (.lui 10 0x12345) (withRegs []) 10 0x12345000 4 = true := by decide
theorem test_auipc : gives (.auipc 10 1) (atPc 0x100 []) 10 0x1100 4 = true := by decide

/-! ### Branches and jumps (41 R260 to R267) -/

theorem test_beq : goes (.beq 1 2 4) (atPc 0x100 [(1, 7), (2, 7)]) 0x108 = true ∧
    goes (.beq 1 2 4) (atPc 0x100 [(1, 7), (2, 8)]) 0x104 = true := by decide
theorem test_bne : goes (.bne 1 2 0xFFE) (atPc 0x100 [(1, 1), (2, 0)]) 0xFC = true := by decide
theorem test_blt : goes (.blt 1 2 8) (atPc 0x100 [(1, 0xFFFFFFFF), (2, 1)]) 0x110 = true := by decide
theorem test_bge : goes (.bge 1 2 0xFFC) (atPc 0x100 [(1, 0xFFFFFFFF), (2, 1)]) 0x104 = true := by decide
theorem test_bltu : goes (.bltu 1 2 6) (atPc 0x100 [(1, 0xFFFFFFFF), (2, 1)]) 0x104 = true := by decide
theorem test_bgeu : goes (.bgeu 1 2 0xFFD) (atPc 0x100 [(1, 0xFFFFFFFF), (2, 1)]) 0xFA = true := by decide
theorem test_jal : gives (.jal 1 0x80) (atPc 0x100 []) 1 0x104 0x100 = true := by decide
theorem test_jalr : gives (.jalr 1 5 4) (atPc 0x100 [(5, 0x2001)]) 1 0x104 0x1F04 = true := by decide

/-! ### Loads and stores (42 R282 to R289) -/

theorem test_lb : gives (.lb 5 6 3) (loadState 0x1000) 5 0xFFFFFF84 4 = true := by decide
theorem test_lh : gives (.lh 5 6 2) (loadState 0x1000) 5 0xFFFF8433 4 = true := by decide
theorem test_lw : gives (.lw 5 6 0xFFC) (loadState 0x1004) 5 0x84332211 4 = true := by decide
theorem test_lbu : gives (.lbu 5 6 3) (loadState 0x1000) 5 0x84 4 = true := by decide
theorem test_lhu : gives (.lhu 5 6 2) (loadState 0x1000) 5 0x8433 4 = true := by decide
theorem test_sb : after (.sb 5 6 1) (withRegs [(6, 0x1000), (5, 0x123456AB)])
    (fun t => t.mem == [(0x1001, 0xAB)]) = true := by decide
theorem test_sh : after (.sh 5 6 2) (withRegs [(6, 0x1000), (5, 0x123456AB)])
    (fun t => t.mem == [(0x1002, 0xAB), (0x1003, 0x56)]) = true := by decide
theorem test_sw : after (.sw 5 6 0xFFC) (withRegs [(6, 0x1004), (5, 0x123456AB)])
    (fun t => t.mem == [(0x1000, 0xAB), (0x1001, 0x56), (0x1002, 0x34), (0x1003, 0x12)]) = true := by decide
/-- Storing the value of an unlisted byte removes the entries. -/
theorem test_sw_zero : after (.sw 0 6 0) (loadState 0x1000) (fun t => t.mem == []) = true := by decide

/-! ### System instructions (43 R302 to R315) -/

theorem test_csrrw : after (.csrrw 5 0x340 6) (withCsr (withRegs [(6, 0x22222222)]) fun c =>
    { c with mscratch := 0x11111111 }) (fun t => t.reg 5 == 0x11111111 && t.csr.mscratch == 0x22222222) = true := by
  decide
theorem test_csrrs : after (.csrrs 0 0x300 6) (withRegs [(6, 8)]) (fun t => t.mstatusWord == 0x1808) = true := by decide
theorem test_csrrc : after (.csrrc 5 0x300 6) (withCsr (withRegs [(6, 8)]) fun c =>
    { c with status := { mie := true, mpie := true, mpp := .machine, mprv := false } })
    (fun t => t.reg 5 == 0x1888 && t.mstatusWord == 0x1880) = true := by decide
theorem test_csrrwi : after (.csrrwi 5 0x340 21) (withCsr (withRegs []) fun c => { c with mscratch := 0xFFFFFFFF })
    (fun t => t.reg 5 == 0xFFFFFFFF && t.csr.mscratch == 0x15) = true := by decide
theorem test_csrrsi : after (.csrrsi 0 0x300 8) (withRegs []) (fun t => t.mstatusWord == 0x1808) = true := by decide
theorem test_csrrci : after (.csrrci 5 0x300 8) (withCsr (withRegs []) fun c =>
    { c with status := { mie := true, mpie := false, mpp := .machine, mprv := false } })
    (fun t => t.reg 5 == 0x1808 && t.mstatusWord == 0x1800) = true := by decide
theorem test_ecall_user : after .ecall { withMtvec (inUser (withRegs [])) 4 with pc := 0x2000 }
    (fun t => t.pc == 0x100 && t.priv == .machine && t.csr.mepc == 0x2000 && t.mcauseWord == 0x08000008 &&
      t.mstatusWord == 0x80) = true := by decide
theorem test_ecall_machine : after .ecall (withMtvec (atPc 0x1000 []) 1)
    (fun t => t.pc == 0x40 && t.mcauseWord == 0x3000000B && t.mexstatusWord 0 == 0x30) = true := by decide
theorem test_ebreak : after .ebreak (withMtvec (atPc 0x2004 []) 4)
    (fun t => t.pc == 0x100 && t.csr.mepc == 0x2004 && t.csr.cause.code == 3 && t.csr.mtval == 0) = true := by decide
theorem test_mret : after .mret (withCsr (withRegs []) fun c =>
    { c with mepc := 0x2004, status := { mie := false, mpie := true, mpp := .user, mprv := false } })
    (fun t => t.pc == 0x2004 && t.priv == .user && t.mstatusWord == 0x88) = true := by decide
/-- Table V12: MRET in user mode. -/
theorem test_mret_user : after .mret (withMtvec (inUser (atPc 0x1000 [])) 1)
    (fun t => t.pc == 0x40 && t.csr.mtval == 0x30200073 && t.mcauseWord == 0x08000002) = true := by decide
theorem test_wfi : after .wfi (atPc 0x2000 []) (fun t => t.pc == 0x2004 && t.sleeping) = true := by decide
theorem test_fence : after (.fence 15 15) (atPc 0x1000 []) (fun t => t.pc == 0x1004 && t.mem == []) = true := by decide
theorem test_fenceI :
    after .fenceI { withCsr (atPc 0x1000 []) (fun c => { c with icacheEnable := true }) with stale := [(0x3000, 0)] }
      (fun t => t.pc == 0x1004 && t.stale == [] && t.icache == .empty) = true := by decide
/-- 43 R315, corner case: with IE = 0 a copy stays. -/
theorem test_fenceI_off :
    after .fenceI { State.reset with icache := { unspecified := false, lines := [(0, some (Vector.replicate 16 7))] } }
      (fun t => t.pc == 4 && t.icache.view 0 == .copy (Vector.replicate 16 7)) = true := by decide

/-! ### Multiply and divide (44 R332 to R339) -/

/-- The operands of the examples of R332 to R335. -/
def factors : State := withRegs [(1, 0x12345678), (2, 0x9ABCDEF0)]
/-- -7 and 2, the operands of R336 to R339. -/
def dividends : State := withRegs [(1, 0xFFFFFFF9), (2, 2)]

theorem test_mul : gives (.mul 3 1 2) factors 3 0x242D2080 4 = true := by decide
theorem test_mulh : gives (.mulh 3 1 2) factors 3 0xF8CC93D6 4 = true := by decide
theorem test_mulhsu : gives (.mulhsu 3 1 2) factors 3 0x0B00EA4E 4 = true ∧
    gives (.mulhsu 3 2 1) factors 3 0xF8CC93D6 4 = true := by decide
theorem test_mulhu : gives (.mulhu 3 1 2) factors 3 0x0B00EA4E 4 = true := by decide
theorem test_div : gives (.div 3 1 2) dividends 3 0xFFFFFFFD 4 = true ∧
    gives (.div 3 1 0) dividends 3 0xFFFFFFFF 4 = true := by decide
theorem test_div_overflow :
    gives (.div 3 1 2) (withRegs [(1, 0x80000000), (2, 0xFFFFFFFF)]) 3 0x80000000 4 = true ∧
    gives (.rem 3 1 2) (withRegs [(1, 0x80000000), (2, 0xFFFFFFFF)]) 3 0 4 = true := by decide
theorem test_divu : gives (.divu 3 1 2) dividends 3 0x7FFFFFFC 4 = true := by decide
theorem test_rem : gives (.rem 3 1 2) dividends 3 0xFFFFFFFF 4 = true ∧
    gives (.rem 3 1 0) dividends 3 0xFFFFFFF9 4 = true := by decide
theorem test_remu : gives (.remu 3 1 2) dividends 3 1 4 = true := by decide

/-! ### Cache instructions (46 R401, R402; table V9) -/

/-- A machine with THEADISAEE = 1 and two copied lines. -/
def cached : State :=
  { withCsr (atPc 0x1000 [(10, 0x123C)]) fun c => { c with theadisaee := true, icacheEnable := true } with
    icache := { unspecified := false, lines := [(0x123, some (Vector.replicate 16 7)), (0, some (Vector.replicate 16 9))] } }

theorem test_icacheIall : after .icacheIall cached (fun t => t.pc == 0x1004 && t.icache == .empty) = true := by decide
theorem test_icacheIall_disabled : after .icacheIall (withMtvec (atPc 0x1000 []) 1)
    (fun t => t.pc == 0x40 && t.csr.mepc == 0x1000 && t.mcauseWord == 0x30000002 && t.csr.mtval == 0x0100000B) = true := by
  decide
theorem test_icacheIpa : after (.icacheIpa 10) cached (fun t =>
    t.pc == 0x1004 && t.icache.view 0x123 == .absent && t.icache.view 0 == cached.icache.view 0) = true := by decide

/-! ### Compressed instructions (45 R356 to R382) -/

theorem test_cAdd : gives (.cAdd 10 11) (withRegs [(10, 5), (11, 7)]) 10 12 2 = true := by decide
theorem test_cAddi : gives (.cAddi 10 0x3D) (withRegs [(10, 2)]) 10 0xFFFFFFFF 2 = true := by decide
theorem test_cAddi4spn : gives (.cAddi4spn 2 2) (withRegs [(2, 0x20001000)]) 10 0x20001008 2 = true := by decide
theorem test_cAddi16sp : gives (.cAddi16sp 0x3E) (withRegs [(2, 0x20001000)]) 2 0x20000FE0 2 = true := by decide
theorem test_cAnd : gives (.cAnd 2 3) (withRegs [(10, 0xFF00FF00), (11, 0x0FF00FF0)]) 10 0x0F000F00 2 = true := by decide
theorem test_cAndi : gives (.cAndi 2 0x30) (withRegs [(10, 0x12345678)]) 10 0x12345670 2 = true := by decide
theorem test_cBeqz : goes (.cBeqz 2 4) (atPc 0x100 []) 0x108 = true ∧
    goes (.cBeqz 2 4) (atPc 0x100 [(10, 1)]) 0x102 = true := by decide
theorem test_cBnez : goes (.cBnez 2 0xFD) (atPc 0x100 [(10, 1)]) 0xFA = true ∧
    goes (.cBnez 2 0xFD) (atPc 0x100 []) 0x102 = true := by decide
theorem test_cEbreak : after .cEbreak (withMtvec (atPc 0x2006 []) 4)
    (fun t => t.pc == 0x100 && t.csr.mepc == 0x2006 && t.csr.cause.code == 3) = true := by decide
theorem test_cJ : goes (.cJ 8) (atPc 0x100 []) 0x110 = true := by decide
theorem test_cJal : gives (.cJal 16) (atPc 0x100 []) 1 0x102 0x20 = true := by decide
theorem test_cJalr : gives (.cJalr 10) (atPc 0x100 [(10, 0x2001)]) 1 0x102 0x1F00 = true := by decide
theorem test_cJr : goes (.cJr 1) (withRegs [(1, 0x104)]) 0x104 = true := by decide
theorem test_cLi : gives (.cLi 10 0x3F) (withRegs []) 10 0xFFFFFFFF 2 = true := by decide
theorem test_cLui : gives (.cLui 10 0x1F) (withRegs []) 10 0x1F000 2 = true ∧
    gives (.cLui 10 0x20) (withRegs []) 10 0xFFFE0000 2 = true := by decide
theorem test_cLw : gives (.cLw 2 3 1) (withBytes (withRegs [(11, 0x1000)]) 0x1004 [0x78, 0x56, 0x34, 0x12]) 10 0x12345678
    2 = true := by decide
theorem test_cLwsp : gives (.cLwsp 10 2) (withBytes (withRegs [(2, 0x20001000)]) 0x20001008 [0xEF, 0xBE, 0xAD, 0xDE]) 10
    0xDEADBEEF 2 = true := by decide
theorem test_cMv : gives (.cMv 10 11) (withRegs [(11, 0xABCD)]) 10 0xABCD 2 = true := by decide
theorem test_cNop : goes .cNop (atPc 0x100 []) 0x102 = true := by decide
theorem test_cOr : gives (.cOr 2 3) (withRegs [(10, 0xFF00FF00), (11, 0x0FF00FF0)]) 10 0xFFF0FFF0 2 = true := by decide
theorem test_cSlli : gives (.cSlli 10 4) (withRegs [(10, 0x12345678)]) 10 0x23456780 2 = true := by decide
theorem test_cSrai : gives (.cSrai 2 4) (withRegs [(10, 0x80000010)]) 10 0xF8000001 2 = true := by decide
theorem test_cSrli : gives (.cSrli 2 4) (withRegs [(10, 0x80000010)]) 10 0x08000001 2 = true := by decide
theorem test_cSub : gives (.cSub 2 3) (withRegs [(10, 5), (11, 7)]) 10 0xFFFFFFFE 2 = true := by decide
theorem test_cXor : gives (.cXor 2 3) (withRegs [(10, 0xFF00FF00), (11, 0x0FF00FF0)]) 10 0xF0F0F0F0 2 = true := by decide
theorem test_cSw : after (.cSw 2 3 1) (withRegs [(11, 0x1000), (10, 0x12345678)])
    (fun t => t.mem == [(0x1004, 0x78), (0x1005, 0x56), (0x1006, 0x34), (0x1007, 0x12)]) = true := by decide
theorem test_cSwsp : after (.cSwsp 10 2) (withRegs [(2, 0x20001000), (10, 0xCAFEF00D)])
    (fun t => t.mem == [(0x20001008, 0x0D), (0x20001009, 0xF0), (0x2000100A, 0xFE), (0x2000100B, 0xCA)]) = true := by
  decide

/-! ### Interrupts, NMI, lockup, sleep (tables V13 to V16) -/

/-- Source `id` with a CLICINTCTL byte and an attribute, enabled. -/
def enabled (s : State) (id : Nat) (ctl : Byte) (trig : BitVec 2) (shv : Bool) : State :=
  s.setSource id fun x => { x with ie := true, ctl := ctl, trig := trig, shv := shv }

/-- The state before every entry row of table V13, id 16 as given. -/
def beforeEntry (trig : BitVec 2) (shv : Bool) : State :=
  let s := withCsr (atPc 0x1000 []) fun c =>
    { c with mtvecBase := 1, mtvt := 8, status := { mie := true, mpie := false, mpp := .machine, mprv := false } }
  withBytes (enabled { s with inputs := { Inputs.idle with lines := 1 }, clic := { s.clic with nlbits := 3 } }
    16 0x7F trig shv) 0x240 [0x01, 0x03]

theorem test_entry_vectored : afterStep (beforeEntry 0 true) (fun t =>
    t.pc == 0x300 && t.csr.mepc == 0x1000 && t.mcauseWord == 0xB8000010 && t.mstatusWord == 0x1880 &&
      t.csr.mil == 0x7F) = true := by decide
theorem test_entry_not_vectored : afterStep (beforeEntry 1 false) (fun t =>
    t.pc == 0x40 && t.mcauseWord == 0xB8000010 && (t.source? 16).map (·.ip) == some true) = true := by decide
theorem test_entry_edge_clears : afterStep (beforeEntry 1 true) (fun t =>
    t.pc == 0x300 && (t.source? 16).map (·.ip) == some false) = true := by decide

/-- Table V13, first and last MNXTI rows. -/
theorem test_mnxti :
    after (.csrrsi 10 0x345 8) (beforeEntry 0 false).sample (fun t => t.reg 10 == 0x240 && t.csr.mil == 0x7F &&
      t.csr.cause.code == 16 && t.csr.status.mie) = true ∧
    after (.csrrsi 10 0x345 8) (withRegs [(10, 7)]) (fun t => t.reg 10 == 0 && t.csr.mil == 0 && t.csr.status.mie) =
      true := by decide

/-- Table V13: stores to the CLIC and what reads back. -/
theorem test_clic_registers :
    after (.sw 5 6 0) (withRegs [(5, 0x7F010100), (6, 0xE0801040)])
      (fun t => t.tcipRead 0xE0801040 .word == some 0x7FC10100) = true ∧
    after (.sb 5 6 3) (withRegs [(5, 0xA0), (6, 0xE0801040)])
      (fun t => t.tcipRead 0xE0801043 .byte == some 0xBF) = true ∧
    after (.sw 5 6 0) (withRegs [(5, 0x7FFFFFFF), (6, 0xE0800008)])
      (fun t => t.tcipRead 0xE0800008 .word == some 0x7F000000) = true ∧
    after (.sw 5 6 0) (withRegs [(5, 0xFFFFFFFF), (6, 0xE0800000)])
      (fun t => t.tcipRead 0xE0800000 .word == some 0x1F) = true := by decide

/-- Table V14: the first row, and the return. -/
def nmiState : State :=
  { withCsr (atPc 0x300 []) fun c => { c with
      mtvecBase := 1, mepc := 0x2222, mil := 0x7F
      cause := { interrupt := true, minhv := false, mpil := 0, code := 16 }
      status := { mie := false, mpie := true, mpp := .machine, mprv := false } } with nmiPending := true }

theorem test_nmi_entry : afterStep nmiState (fun t =>
    t.csr.mnmipc == 0x2222 && t.csr.mepc == 0x300 && t.mnmicauseWord == 0xB8000010 && t.mcauseWord == 0x30000018 &&
      t.mstatusWord == 0x1800 && t.pc == 0x40) = true := by decide
theorem test_nmi_return : after .mret nmiState.nmiEntry (fun t =>
    t.pc == 0x300 && t.csr.mepc == 0x2222 && t.mcauseWord == 0xB8000010 && t.mstatusWord == 0x1880 &&
      t.mnmicauseWord == 0x88000010) = true := by decide

/-- Table V15: a misaligned load inside an exception handler locks up. -/
theorem test_lockup : after (.lw 7 6 2) (withCsr (withRegs [(6, 0x20000000)]) fun c =>
    { c with mepc := 0xC, ex := { c.ex with exptVld := true } })
    (fun t => t.mexstatusWord 0 == 0x70 && t.csr.mepc == 0xC && t.cpuPadLockup) = true := by decide

/-- Table V16: the conditional swap, and a wake-up that does not take the interrupt. -/
theorem test_scratch_swap :
    after (.csrrw 2 0x348 2) { withCsr (inUser (withRegs [(2, 0x20000F00)])) fun c => { c with mscratch := 0x20008000 } with
      priv := .machine } (fun t => t.reg 2 == 0x20008000 && t.csr.mscratch == 0x20000F00) = true ∧
    after (.csrrw 2 0x349 2) (withCsr (withRegs [(2, 0x20000F00)]) fun c => { c with mscratch := 0x20008000, mil := 0x7F })
      (fun t => t.reg 2 == 0x20008000 && t.csr.mscratch == 0x20000F00) = true := by decide
theorem test_wake_up : afterStep (withBytes { withCsr (beforeEntry 0 true) fun c =>
    { c with status := { c.status with mie := false } } with sleeping := true } 0x1000 [0x01, 0x00])
    (fun t => !t.sleeping && t.pc == 0x1002) = true := by decide

/-- One step of the machine on a placed word. -/
theorem test_step_placed : afterStep (State.reset.withFetchWord 32 0x12345537)
    (fun t => t.reg 10 == 0x12345000 && t.pc == 4) = true := by decide

/-! ### The host and the debug unit (60 R435, R443, R458, R465, R500 to R505; 70 R521) -/

/-- The events take the state to one that passes the check. -/
def afterEvents (s : State) (l : List HostEvent) (check : State → Bool) : Bool :=
  match s.hostEvents l with
  | .ok t => check t
  | .error _ => false

/-- 60 R505, example 1: a single read of a word at 0xABCD by DACSR = 0x20. -/
theorem test_ddma_single_read :
    afterEvents (withBytes State.reset 0xABCD [0x78, 0x56, 0x34, 0x12])
      [.hadHcr 0x20000000, .hadDatr 0xABCD, .hadDacsr 0x20, .hadReadDarwr]
      (fun t => t.had.data == 0x12345678 && t.had.dataPhase && t.had.datr == 0xABCD) = true ∧
    afterEvents State.reset [.hadHcr 0x20000000, .hadDatr 0xABCD, .hadDacsr 0x20, .hadReadDarwr, .hadReadDarwr]
      (fun t => !t.had.dataPhase) = true := by decide

/-- 60 R505, example 3: increase writes by DACSR = 0x21 move DATR by 4. -/
theorem test_ddma_increase_writes :
    afterEvents State.reset
      [.hadHcr 0x20000000, .hadDatr 0xABCD, .hadDacsr 0x21, .hadWriteDarwr 0x11, .hadWriteDarwr 0x22]
      (fun t => t.had.datr == 0xABD5 && t.mem == [(0xABCD, 0x11), (0xABD1, 0x22)] && t.stale == []) = true := by decide

/-- A debugger's store of 0 to an edge-triggered pending bit, in the step after the edge (60 R465), clears it. -/
theorem test_debug_clears_pending :
    afterStep { (enabled State.reset 16 0x7F 1 false).setSource 16 (fun x => { x with ip := true, edge := true }) with
        debugMode := true, schedule := [[.debugStore 0xE0801040 .byte 0]] }
      (fun t => (t.source? 16).map (·.ip) == some false) = true := by decide

/-- The counter does not decrease, and wraps (60 R458). -/
theorem test_counter : countOn 5 4 = 5 ∧ countOn 4 9 = 9 ∧ countOn 0xFFFFFFFFFFFFFFFF 0 = 0 := by decide

/-- 70 R521: the first step raises InstrAccessFault where RESET_ADDR is in the TCIP region, and the handler is at 0. -/
theorem test_reset_address_in_tcip :
    afterStep (State.resetWith { Config.reference with resetAddrHi := 0x3A000000 })
      (fun t => t.pc == 0 && t.csr.cause.code == 1 && t.csr.mtval == 0xE8000000) = true := by decide

/-- Rows of table 8.1 and pairs that are none; an overlap (20 R131, R133). -/
theorem test_bus_window :
    busWindowLegal { Config.reference with iahbBase := 0x123, iahbMask := 0xFFF } = true ∧
    busWindowLegal { Config.reference with iahbBase := 0x102, iahbMask := 0xFFE } = true ∧
    busWindowLegal { Config.reference with iahbBase := 0x101, iahbMask := 0xFFE } = false ∧
    busWindowLegal { Config.reference with iahbMask := 0xFF1 } = false ∧
    busWindowLegal { Config.reference with iahbBase := 0xE00, iahbMask := 0xF00 } = true ∧
    busOverlap { Config.reference with iahbBase := 0xE00, iahbMask := 0xF00 } = true ∧
    busOf .reference 0x1FFFFFFF = .instruction ∧ busOf .reference 0x20000000 = .system ∧
    busOf .reference 0xEFFFFFFF = .tcip := by decide

/-- Both attributes come from the region an address lies in, and are 1 above the last (20 R140). -/
theorem test_sysmap :
    memAttr { Config.reference with sysmap := Vector.replicate 8 ⟨0x20000, false, true⟩ } 0x1FFFFFFF = ⟨false, true⟩ ∧
    memAttr { Config.reference with sysmap := Vector.replicate 8 ⟨0x20000, false, false⟩ } 0x20000000 = ⟨true, true⟩ := by
  decide

/-! ### Witnesses: a state and operands that meet the hypotheses of each statement that has some -/

/-- The reference configuration without the multiplier. -/
def noM : Config := { Config.reference with hasM := false }

theorem witness_DecodeOfEncode : (Instr.mul 15 1 2).wellFormed = true ∧
    ((Instr.mul 15 1 2).needsM = true → Config.reference.hasM = true) ∧
    (Instr.cLui 15 0x20).wellFormed = true ∧ ((Instr.cLui 15 0x20).needsM = true → noM.hasM = true) := by decide

theorem witness_EncodeOfDecode : decodeCode .reference (.c32 0xFE209EE3) = .instr (.bne 1 2 0xFFE) ∧
    decodeCode .reference (.c16 0x0005) = .instr (.cAddi 0 1) := by decide

/-- One halfword for each case. -/
theorem witness_UnnamedHalfwordsIllegal :
    (0x2000#16).extractLsb' 0 2 = 0#2 ∧ (0x2000#16).extractLsb' 13 3 = 1#3 ∧
    (0x7FFC#16).extractLsb' 0 2 = 0#2 ∧ (0x7FFC#16).extractLsb' 13 3 = 3#3 ∧
    (0x8000#16).extractLsb' 0 2 = 0#2 ∧ (0x8000#16).extractLsb' 13 3 = 4#3 ∧
    (0xA000#16).extractLsb' 0 2 = 0#2 ∧ (0xA000#16).extractLsb' 13 3 = 5#3 ∧
    (0xFFFC#16).extractLsb' 0 2 = 0#2 ∧ (0xFFFC#16).extractLsb' 13 3 = 7#3 ∧
    ((0x9C01#16).extractLsb' 0 2 = 1#2 ∧ (0x9C01#16).extractLsb' 13 3 = 4#3 ∧ (0x9C01#16).extractLsb' 10 2 = 3#2 ∧
      (0x9C01#16).getLsbD 12 = true) ∧
    (0x2002#16).extractLsb' 0 2 = 2#2 ∧ (0x2002#16).extractLsb' 13 3 = 1#3 ∧ (0x6002#16).extractLsb' 13 3 = 3#3 ∧
    (0xA002#16).extractLsb' 13 3 = 5#3 ∧ (0xFFFE#16).extractLsb' 13 3 = 7#3 := by decide

/-- One word for each format, its register field at 16 or 31. -/
theorem witness_UpperRegisterFieldsIllegal :
    (opcodeField 0x00730833 = 0x33#7 ∧ (rdField 0x00730833).getLsbD 4 = true) ∧
    (opcodeField 0x00082283 = 0x03#7 ∧ (rs1Field 0x00082283).getLsbD 4 = true) ∧
    (opcodeField 0x01432023 = 0x23#7 ∧ (rs2Field 0x01432023).getLsbD 4 = true) ∧
    (opcodeField 0x00001FB7 = 0x37#7 ∧ (rdField 0x00001FB7).getLsbD 4 = true) ∧
    (opcodeField 0x340812F3 = 0x73#7 ∧ funct3Field 0x340812F3 = 1#3 ∧ (rs1Field 0x340812F3).getLsbD 4 = true) ∧
    (opcodeField 0x34045873 = 0x73#7 ∧ funct3Field 0x34045873 = 5#3 ∧ (rdField 0x34045873).getLsbD 4 = true) ∧
    (opcodeField 0x0388000B = 0x0B#7 ∧ (rs1Field 0x0388000B).getLsbD 4 = true) ∧
    ((0x0805#16).extractLsb' 0 2 = 1#2 ∧ (0x0805#16).extractLsb' 13 3 = 0#3 ∧ (0x0805#16).getLsbD 11 = true) ∧
    ((0x4802#16).extractLsb' 0 2 = 2#2 ∧ (0x4802#16).extractLsb' 13 3 = 2#3 ∧ (0x4802#16).getLsbD 11 = true) ∧
    ((0x9542#16).extractLsb' 0 2 = 2#2 ∧ (0x9542#16).extractLsb' 13 3 = 4#3 ∧ (0x9542#16).getLsbD 6 = true) ∧
    ((0xC042#16).extractLsb' 0 2 = 2#2 ∧ (0xC042#16).extractLsb' 13 3 = 6#3 ∧ (0xC042#16).getLsbD 6 = true) := by
  decide

theorem witness_MultiplierAbsent : noM.hasM = false ∧ opcodeField 0x027302B3 = 0x33#7 ∧ funct7Field 0x027302B3 = 1#7 ∧
    (State.resetWith noM).cfg.hasM = false ∧ (Instr.remu 1 2 3).needsM = true := by decide

theorem witness_FenceAndFixedWordsExact : opcodeField 0x8330000F = 0x0F#7 ∧ opcodeField 0x00004073 = 0x73#7 ∧
    funct3Field 0x00004073 = 4#3 ∧ funct3Field 0x00000073 = 0#3 := by decide

theorem witness_HintFormsOnlyAdvance : decode16 .standard 0x0005 = .instr (.cAddi 0 1) ∧
    (Instr.cAddi 0 1).wellFormed = false ∧
    decode16 .standard 0x0102 = .instr (.cSlli 2 0) ∧ (Instr.cSlli 2 0).wellFormed = false := by decide

/-- Reserved and HINT forms of 30 R202, the printed halfwords among them, and halfwords that are neither. -/
theorem witness_HintFormsOnlyAdvance_forms :
    (reservedForm 0x0004 ∧ reservedForm 0x6101 ∧ reservedForm 0x6081 ∧ reservedForm 0x9001 ∧ reservedForm 0x9405 ∧
      reservedForm 0x1086 ∧ reservedForm 0x4002 ∧ reservedForm 0x8002) ∧
    (hintForm 0x0005 ∧ hintForm 0x0081 ∧ hintForm 0x4001 ∧ hintForm 0x7001 ∧ hintForm 0x8001 ∧ hintForm 0x8481 ∧
      hintForm 0x0006 ∧ hintForm 0x0082 ∧ hintForm 0x8006 ∧ hintForm 0x903E) ∧
    ¬ reservedForm 0x0000 ∧ ¬ hintForm 0x0001 ∧ ¬ hintForm 0x9002 ∧ ¬ reservedForm 0x0801 ∧ ¬ hintForm 0x0801 := by
  unfold reservedForm hintForm
  refine ⟨⟨?_, ?_, ?_, ?_, ?_, ?_, ?_, ?_⟩, ⟨?_, ?_, ?_, ?_, ?_, ?_, ?_, ?_, ?_, ?_⟩, ?_, ?_, ?_, ?_, ?_⟩ <;> decide

theorem witness_SetLessThanResults : State.reset.cfg.sltiuZeroExtends = false ∧
    (State.resetWith { Config.reference with sltiuZeroExtends := true }).cfg.sltiuZeroExtends = true := by decide

/-- `MultiplyResults` and `DivideResults`. -/
theorem witness_multiplier_present : State.reset.cfg.hasM = true := by decide

/-- Signed, with the overflow, and unsigned with a divisor of 1. -/
theorem witness_DivisionIdentity :
    (withRegs [(1, 0x80000000), (2, 0xFFFFFFFF)]).reg 2 ≠ 0 ∧
    after (.div 3 1 2) (withRegs [(1, 0x80000000), (2, 0xFFFFFFFF)]) (fun t => t.reg 3 == 0x80000000) = true ∧
    after (.rem 3 1 2) (withRegs [(1, 0x80000000), (2, 0xFFFFFFFF)]) (fun t => t.reg 3 == 0) = true ∧
    after (.divu 3 1 2) (withRegs [(1, 0xFFFFFFFF), (2, 1)]) (fun t => t.reg 3 == 0xFFFFFFFF) = true ∧
    after (.remu 3 1 2) (withRegs [(1, 0xFFFFFFFF), (2, 1)]) (fun t => t.reg 3 == 0) = true := by decide

theorem witness_BranchAndJumpResults : (0xFC : Word) = (atPc 0x100 []).pc + BitVec.ofInt 32 (2 * (0xFFE#12).toInt) ∧
    (0x104 : Word) = (atPc 0x100 []).pc + 4 := by decide

/-- At the last byte, halfword and word of memory and just below and above the device region. -/
theorem witness_LoadResults : State.reset.loadsMemory 0xFFFFFFFF .byte ∧ State.reset.loadsMemory 0xFFFFFFFE .half ∧
    State.reset.loadsMemory 0xFFFFFFFC .word ∧ State.reset.loadsMemory 0xDFFFFFFC .word ∧
    State.reset.loadsMemory 0xF0000000 .word := by unfold State.loadsMemory; decide

theorem witness_StoreResults :
    (withRegs [(6, 0xFFFFFFFF)]).storesMemory ((withRegs [(6, 0xFFFFFFFF)]).effectiveAddress 6 0) .byte ∧
    (withRegs [(6, 0xFFFFFFFE)]).storesMemory ((withRegs [(6, 0xFFFFFFFE)]).effectiveAddress 6 0) .half ∧
    (withRegs [(6, 0)]).storesMemory ((withRegs [(6, 0)]).effectiveAddress 6 0xFFC) .word := by
  unfold State.storesMemory; decide

/-- A bus that answers every access to 0x2000..0x2FFF with an error. -/
def withErrors (s : State) : State :=
  { s with inputs := { Inputs.idle with busErrors :=
    [⟨0x2000, 0x2FFF, .load, .word⟩, ⟨0x2000, 0x2FFF, .store, .word⟩, ⟨0x2000, 0x2FFF, .fetch, .half⟩] } }

/-- Misaligned; denied by the PMP; a device in user mode; a bus error; for loads and stores. -/
theorem witness_AccessFaults :
    loadAccess (withRegs [(6, 0x1000)]) (.lw 5 6 3) = some (0x1003, .word) ∧ (0x1003 : Word).toNat % 4 ≠ 0 ∧
    loadAccess (withRegs [(6, 0x1000)]) (.lhu 5 6 1) = some (0x1001, .half) ∧
    (inUser State.reset).pmpAllows (inUser State.reset).dataPriv .load 0x1000 = false ∧
    (inUser State.reset).pmpAllows (inUser State.reset).dataPriv .store 0x1000 = false ∧
    (inTcip 0xE0000000 = true ∧ inTcip 0xEFFFFFFF = true ∧ (inUser State.reset).dataPriv = .user) ∧
    (inTcip 0x2FFC = false ∧ (withErrors State.reset).busError 0x2FFC .word .load = true ∧
      (withErrors State.reset).busError 0x2000 .word .store = true) ∧
    storeAccess (withRegs [(6, 0x1000), (5, 7)]) (.sw 5 6 2) = some (0x1002, .word, 7, 4) ∧
    storeAccess (withRegs [(2, 0x1001), (5, 7)]) (.cSwsp 5 1) = some (0x1005, .word, 7, 2) := by decide

theorem witness_LoadAfterStore : State.reset.storesMemory (State.reset.effectiveAddress 6 0xFFC) .word ∧
    State.reset.loadsMemory (State.reset.effectiveAddress 6 0xFFC) .word ∧
    State.reset.loadsMemory (State.reset.effectiveAddress 6 0xFFC) .half ∧
    State.reset.loadsMemory (State.reset.effectiveAddress 6 0xFFC) .byte ∧
    after (.sw 5 6 0xFFC) State.reset (fun _ => true) = true := by
  unfold State.storesMemory State.loadsMemory; decide

theorem witness_MemoryCanonical : Memory.wf [(0, 1), (0xFFFFFFFF, 2)] ∧
    ∀ a, Memory.read [(0, 1), (0xFFFFFFFF, 2)] a =
      Memory.read (Memory.write (Memory.write [] 0xFFFFFFFF 2) 0 1) a :=
  ⟨by decide, fun _ => rfl⟩

theorem witness_DeviceWordsRead : State.reset.cfg.layout = .reference ∧
    State.reset.clic.sources.Pairwise (fun y z => y.id ≠ z.id) ∧
    (∃ x ∈ State.reset.clic.sources, x.id = 31 ∧ x.id < 256) ∧
    (∀ x ∈ State.reset.clic.sources, x.id ≠ 255) ∧ ∀ x ∈ State.reset.clic.sources, x.id ≠ 0 := by decide

/-- The last id of the CLIC's register range. -/
theorem witness_DeviceWordsWritten : 255 < 256 ∧ (0xE08013FC : Word) = 0xE0801000 + 4 * BitVec.ofNat 32 255 ∧
    (∀ x ∈ State.reset.clic.sources, x.id ≠ 255) ∧ State.reset.cfg.layout = .reference := by decide

/-- A register, a reserved offset and an unsupported width; the aligned addresses have machine privilege. -/
theorem witness_DeviceAccesses :
    (inTcip 0xE0000000 = true ∧ State.reset.dataPriv = .machine ∧ (0xE0000000 : Word).toNat % 4 = 0 ∧
      State.reset.pmpAllows .machine .load 0xE0000000 = true ∧ State.reset.pmpAllows .machine .store 0xE0000000 = true) ∧
    (State.reset.tcipRead 0xE0000000 .word = some 0 ∧ State.reset.tcipRead 0xE08013FC .word = some 0 ∧
      State.reset.tcipRead 0xE0801400 .word = none ∧ State.reset.tcipRead 0xE0800FFC .word = none) ∧
    (State.reset.tcipRead 0xE08013FF .byte = some 0 ∧ State.reset.tcipRead 0xE0000000 .byte = none ∧
      loadAccess (withRegs [(6, 0xE0801040)]) (.lb 5 6 3) = some (0xE0801043, .byte) ∧
      loadResult 0x9F (.lb 5 6 3) = some (5, 0xFFFFFF9F, 4)) ∧
    (loadAccess (withRegs [(2, 0xE0801040)]) (.cLwsp 5 0) = some (0xE0801040, .word) ∧
      storeAccess (withRegs [(6, 0xE0801040), (5, 7)]) (.sh 5 6 2) = some (0xE0801042, .half, 7, 4)) ∧
    (State.reset.tcipWrite 0xE0801000 .word 1).isSome = true ∧ State.reset.tcipWrite 0xEFFFFFFC .word 1 = none := by
  refine ⟨?_, ?_, ?_, ?_, ?_, ?_⟩ <;> decide

theorem witness_CompressedMatchBase : ∃ rd imm, Instr.cAddi16sp 0x20 = .cAddi16sp imm ∧
    Instr.addi 2 2 0xE00 = .addi 2 2 ((imm ++ 0#4).signExtend 12) ∧ Instr.cMv 15 1 = .cMv rd 1 ∧
    Instr.add 15 0 1 = .add rd 0 1 := ⟨15, 0x20, by decide⟩

theorem witness_CompressedAccessResults :
    (0xFC : Word) = (withRegs [(8, 0x80)]).reg (cr 0) + BitVec.ofNat 32 (4 * (31#5).toNat) ∧
    (0x1FC : Word) = (withRegs [(2, 0x100)]).reg 2 + BitVec.ofNat 32 (4 * (63#6).toNat) ∧
    State.reset.loadsMemory 0x1FC .word ∧ State.reset.storesMemory 0xFC .word := by
  unfold State.storesMemory State.loadsMemory; decide

/-- A fetch answers a parcel. -/
def fetches (s : State) (a : Word) : Bool :=
  match s.fetchHalf a with
  | .ok _ => true
  | .raised _ | .refused _ => false

theorem witness_FenceAndCacheResults : cached.priv = .machine ∧ cached.csr.theadisaee = true ∧
    (inUser cached).priv = .user ∧ State.reset.csr.theadisaee = false ∧
    (cached.cfg.icacheSize ≠ .none ∧ cached.csr.icacheEnable = true) ∧
    (State.reset.csr.icacheEnable = false ∧ State.reset.cfg.fenceIEmptiesIdleCache = false) ∧
    after .fenceI cached (fun t => fetches t 0 && fetches t 0x1230) = true := by decide

/-- A line with a copy, an older value of a parcel, and the cache out of use. -/
theorem witness_FetchOldOrNew :
    (∃ h t, cached.fetchHalf 0x1230 = .ok (h, t)) ∧ cached.usesIcache 0x1230 = true ∧
    cached.icache.view (lineOf 0x1230) ≠ .anything ∧
    (∃ h t, ({ State.reset with stale := [(0, 7)] } : State).fetchHalf 0 = .ok (h, t)) ∧
    State.reset.fetchHalf 0 = .ok (0, State.reset) ∧ State.reset.usesIcache 0 = false :=
  ⟨⟨_, _, rfl⟩, by decide, by decide, ⟨_, _, rfl⟩, by decide, by decide⟩

/-- The reference configuration whose EBREAK enters debug mode. -/
def debugBreak : Config := { Config.reference with ebreakEntersDebug := true }

theorem witness_CallBreakWaitResults : State.reset.priv = .machine ∧ (inUser State.reset).priv = .user ∧
    State.reset.cfg.ebreakEntersDebug = false ∧ (State.resetWith debugBreak).cfg.ebreakEntersDebug = true := by decide

theorem witness_ReturnFromTrap : State.reset.priv = .machine ∧ State.reset.inNmi = false ∧
    (inUser State.reset).priv = .user := by decide

/-- From machine mode, from user mode, and with a saved value that is no mode. -/
theorem witness_ReturnFromNmi :
    (nmiState.nmiEntry.priv = .machine ∧ nmiState.nmiEntry.csr.cause.interrupt = false ∧
      nmiState.nmiEntry.csr.cause.code = 24 ∧ nmiState.nmiEntry.csr.nmi.mpp = 3#2) ∧
    ((inUser nmiState).nmiEntry.priv = .machine ∧ (inUser nmiState).nmiEntry.csr.cause.code = 24 ∧
      (inUser nmiState).nmiEntry.csr.nmi.mpp = 0#2 ∧ (inUser nmiState).nmiEntry.cfg.hasUmode = true) ∧
    illegalMpp Config.reference 2#2 ∧ illegalMpp { Config.reference with hasUmode := false } 0#2 := by
  unfold illegalMpp; decide

/-- A plain register, a register of 43 R300 step 4 that is only read, and a write of MCPUID that does not trap. -/
theorem witness_CsrInstructionResults : State.reset.priv = .machine ∧ csr? 0x340 = some .mscratch ∧
    (0, State.reset) = State.reset.csrRead .mscratch ∧ Csr.mscratch.writeTraps .reference = false ∧
    csr? 0xF11 = some .mvendorid ∧ Csr.mvendorid.writeTraps .reference = true ∧
    (fun old : Word => if (0 : Reg) = 0 then none else some (old ||| State.reset.reg 0)) 0x5B7 = none ∧
    csr? 0xFC0 = some .mcpuid ∧ Csr.mcpuid.writeTraps .reference = false ∧
    after (.csrrw 5 0xFC0 6) (withRegs [(6, 7)]) (fun t => t.reg 5 == 0 && t.pc == 4) = true := by decide

theorem witness_CsrUserModeIllegal : csrNumber (.csrrs 5 0xC00 0) = some 0xC00 ∧
    csrNumber (.csrrwi 5 0x340 1) = some 0x340 ∧ (inUser State.reset).priv = .user := by decide

/-- The reference configuration with the trap variant of a write of MCPUID. -/
def trapsMcpuid : Config := { Config.reference with mcpuidWriteTraps := true }

theorem witness_CsrIllegalAccesses : csrNumber (.csrrs 5 0xC00 0) = some 0xC00 ∧ 0xC00 ∉ csrNumbers ∧
    csrNumber (.csrrw 0 0xF11 6) = some 0xF11 ∧ csrWriteForm State.reset.cfg (.csrrw 0 0xF11 6) = true ∧
    csrWriteForm trapsMcpuid (.csrrci 0 0xFC0 1) = true ∧ trapsMcpuid.mcpuidWriteTraps = true ∧
    State.reset.priv = .machine := by decide

theorem witness_CsrReadValues : (3, State.reset) = State.reset.csrRead .mtvec ∧ State.reset.csr.mtvecLowOpen = false ∧
    (0x30000000, State.reset) = State.reset.csrRead .mcause ∧ State.reset.cfg.layout = .reference ∧
    (0x1800, State.reset) = State.reset.csrRead .mstatus ∧ (0xC0000000, State.reset) = State.reset.csrRead .mxstatus ∧
    (0x10, State.reset) = State.reset.csrRead .mexstatus := by decide

theorem witness_CsrWriteReadBack : (0xFFFFFFC3 : Word).extractLsb' 2 4 = 0#4 ∧
    State.reset.cfg.icacheSize ≠ .none ∧ (0x30000000 : Word).extractLsb' 28 2 = 3#2 ∧
    (0 : Word).extractLsb' 28 2 = 0#2 ∧ State.reset.cfg.hasUmode = true ∧ State.reset.cfg.layout = .reference ∧
    (0x1800 : Word).extractLsb' 11 2 = 3#2 ∧ illegalMpp Config.reference ((0x10000000 : Word).extractLsb' 28 2) ∧
    illegalMpp Config.reference ((0x1000 : Word).extractLsb' 11 2) := by unfold illegalMpp; decide

/-- Both conditions at both values, and undescribed forms. -/
theorem witness_ScratchSwapResults : State.reset.priv = .machine ∧ State.reset.csr.status.mpp = .machine ∧
    (inUser State.reset).csr.status.mpp ≠ .machine ∧
    (State.reset.csr.cause.mpil = 0 ↔ State.reset.csr.mil = 0) ∧
    ¬ ((withCsr State.reset fun c => { c with mil := 1 }).csr.cause.mpil = 0 ↔
      (withCsr State.reset fun c => { c with mil := 1 }).csr.mil = 0) ∧
    ({ Config.reference with scratchSwapWithoutRd := true } : Config).scratchSwapWithoutRd = true ∧
    State.reset.cfg.scratchSwapWithoutRd = false ∧ csrNumber (.csrrw 0 0x348 6) = some 0x348 ∧
    csrNumber (.csrrs 5 0x348 0) = some 0x348 ∧ csrNumber (.csrrw 5 0x345 0) = some 0x345 := by decide

/-- With an interrupt to hand out, and with none. -/
theorem witness_NextInterruptResults : (beforeEntry 0 false).sample.priv = .machine ∧
    (beforeEntry 0 false).sample.cfg.layout = .reference ∧ (beforeEntry 0 false).sample.cfg.hasUmode = true ∧
    (∃ x, (beforeEntry 0 false).sample.presented = some x ∧
      (beforeEntry 0 false).sample.clic.mth < (beforeEntry 0 false).sample.levelOf x ∧
      (beforeEntry 0 false).sample.csr.cause.mpil < (beforeEntry 0 false).sample.levelOf x ∧ x.shv = false) ∧
    State.reset.presented = none ∧ State.reset.priv = .machine :=
  ⟨by decide, by decide, by decide, ⟨_, rfl, by decide, by decide, rfl⟩, by decide, by decide⟩

/-- Entry 15 locked in TOR mode. -/
def pmpState : State :=
  { State.reset with pmp := { cfg := (Vector.replicate 16 (0 : Byte)).set 15 0x8F, addr := Vector.replicate 16 1 } }

/-- The reference configuration with four PMP entries. -/
def fourEntries : Config := { Config.reference with pmpEntries := .four }

theorem witness_PmpWriteRules :
    (pmpState.pmp.cfg[13].getLsbD 7 = false ∧
      ∀ j : Fin 16, j.val = 13 + 1 →
        ¬ (pmpState.pmp.cfg[j.val].getLsbD 7 = true ∧ pmpState.pmp.cfg[j.val].extractLsb' 3 2 = 1#2)) ∧
    (∀ j : Fin 16, j.val = 15 + 1 → j.val = 0) ∧ State.reset.pmp.cfg[15].getLsbD 7 = false ∧
    pmpState.pmp.cfg[15].getLsbD 7 = true ∧ pmpState.pmp.cfg[15].extractLsb' 3 2 = 1#2 ∧
    (State.resetWith fourEntries).cfg.pmpEntries.toNat ≤ 4 ∧
    (State.resetWith { Config.reference with pmpEntries := .none }).cfg.pmpEntries = .none := by decide

theorem witness_PmpLockedUntilReset : afterStep pmpState (fun _ => true) = true ∧
    (∀ events ∈ pmpState.schedule.head?, ∀ e ∈ events, (∀ n, e ≠ .reset n) ∧ ∀ m, e ≠ .debugReplace m) ∧
    pmpState.pmp.cfg[15].getLsbD 7 = true ∧ pmpState.pmp.cfg[15].extractLsb' 3 2 = 1#2 :=
  ⟨by decide, nofun, by decide, by decide⟩

/-- The last entry decides; nothing matches. -/
theorem witness_PmpDecision :
    (({ pmpState with pmp := { pmpState.pmp with addr := pmpState.pmp.addr.set 14 0 } } : State).pmpEntry 15).hits 3 = true ∧
    (∀ j : Fin 16, j.val < 15 →
      (({ pmpState with pmp := { pmpState.pmp with addr := pmpState.pmp.addr.set 14 0 } } : State).pmpEntry j).hits 3 = false) ∧
    State.reset.cfg.pmpEntries ≠ .none ∧ ∀ i : Fin 16, (State.reset.pmpEntry i).hits 3 = false := by decide

/-- The four modes; NAPOT with no, four and thirty trailing ones. -/
theorem witness_PmpMatch : (0x07#8).extractLsb' 3 2 = 0#2 ∧ (0x0F#8).extractLsb' 3 2 = 1#2 ∧
    (0x17#8).extractLsb' 3 2 = 2#2 ∧ (0x1F#8).extractLsb' 3 2 = 3#2 ∧
    (0x0040000E : Word).toNat % 2 ^ (0 + 1) = 2 ^ 0 - 1 ∧ (0x0040000F : Word).toNat % 2 ^ (4 + 1) = 2 ^ 4 - 1 ∧
    (0x3FFFFFFF : Word).toNat % 2 ^ (30 + 1) = 2 ^ 30 - 1 := by decide

/-- A user store to a byte the PMP lets it store to (entry 15: all of memory). -/
def userState : State :=
  inUser { withRegs [(6, 0x1000), (5, 7)] with pmp := {
    cfg := (Vector.replicate 16 (0 : Byte)).set 15 0x1F, addr := Vector.replicate 16 0xFFFFFFFF } }

/-- A user access with machine data privilege, by MSTATUS.MPRV and MPP. -/
def mprvState : State :=
  withCsr { userState with regs := (withRegs [(6, 0xE0000000), (5, 1)]).regs } fun c =>
    { c with status := { mie := true, mpie := false, mpp := .machine, mprv := true } }

theorem witness_UserModeConfined : userState.priv = .user ∧ userState.dataPriv = .user ∧
    mprvState.priv = .user ∧ mprvState.dataPriv = .machine ∧ after (.sw 5 6 0) mprvState (fun t => t.clint.msip) = true ∧
    after (.sw 5 6 0) userState (fun t => t.byteAt 0x1000 == 7) = true ∧
    after .ecall userState (fun t => t.priv == .machine) = true := by decide

/-- The mode stays, an exception is taken, and MRET. -/
theorem witness_PrivilegeChanges : after (.addi 1 1 1) userState (fun t => t.priv == .user) = true ∧
    after .ecall userState (fun t => t.priv == .machine) = true ∧
    after .mret { userState with priv := .machine } (fun t => t.priv == .user) = true := by decide

theorem witness_SourceSampling : (∃ x ∈ (beforeEntry 1 true).clic.sources, x.trig = 1#2 ∧ x.prev = false) ∧
    (∃ x ∈ (beforeEntry 3 true).clic.sources, x.trig = 3#2) ∧
    (∃ x ∈ (beforeEntry 0 true).clic.sources, x.trig.getLsbD 0 = false) ∧ 239 < 240 := by decide

theorem witness_InterruptSelection : (∃ x, (beforeEntry 0 true).sample.presented = some x) ∧
    State.reset.presented = none ∧ (∃ x, (beforeEntry 0 true).sample.interruptToTake = some x) ∧
    3 = min (beforeEntry 0 true).clic.nlbits.toNat (beforeEntry 0 true).cfg.ctlBits.toNat :=
  ⟨⟨_, rfl⟩, by decide, ⟨_, rfl⟩, by decide⟩

/-- Not vectored, and vectored with a readable table entry. -/
theorem witness_InterruptEntryStep : (beforeEntry 0 false).quiet ∧ (beforeEntry 0 false).running ∧
    (beforeEntry 0 false).sample.nmiPending = false ∧
    (∃ x, (beforeEntry 0 false).sample.interruptToTake = some x ∧ x.shv = false) ∧
    (beforeEntry 0 true).running ∧
    (∃ x, (beforeEntry 0 true).sample.interruptToTake = some x ∧ x.shv = true ∧ x.id = 16) ∧
    (0x240 : Word) = ((beforeEntry 0 true).sample.csr.mtvt ++ 0#6) + BitVec.ofNat 32 (4 * 16) ∧ inTcip 0x240 = false ∧
    (beforeEntry 0 true).sample.busError 0x240 .word .load = false :=
  ⟨by unfold State.quiet; decide, ⟨rfl, rfl, rfl⟩, rfl, ⟨_, rfl, rfl⟩, ⟨rfl, rfl, rfl⟩, ⟨_, rfl, rfl, rfl⟩, by decide, by decide,
    by decide⟩

/-- Vectored, the table in the TCIP region or on a bus that answers with an error. -/
theorem witness_InterruptEntryStep_unreadable :
    (withCsr (beforeEntry 0 true) fun c => { c with mtvt := 0x3800000 }).quiet ∧
    (withCsr (beforeEntry 0 true) fun c => { c with mtvt := 0x3800000 }).running ∧
    (∃ x, (withCsr (beforeEntry 0 true) fun c => { c with mtvt := 0x3800000 }).sample.interruptToTake = some x ∧
      x.shv = true ∧ x.id = 16) ∧
    inTcip ((0x3800000#26 ++ 0#6) + BitVec.ofNat 32 (4 * 16)) = true ∧
    ({ beforeEntry 0 true with inputs := { (beforeEntry 0 true).inputs with
        busErrors := [⟨0x240, 0x240, .load, .word⟩] } } : State).sample.busError 0x240 .word .load = true :=
  ⟨by unfold State.quiet; decide, ⟨rfl, rfl, rfl⟩, ⟨_, rfl, rfl, rfl⟩, by decide, by decide⟩

/-- From running and from lockup. -/
def lockedState : State :=
  withCsr { State.reset with nmiPending := true } fun c => { c with ex := { c.ex with lockup := true } }

theorem witness_NmiEntryStep : nmiState.quiet ∧ nmiState.debugMode = false ∧ nmiState.sleeping = false ∧
    nmiState.sample.nmiPending = true ∧
    ¬ (nmiState.csr.cause.interrupt = false ∧ nmiState.csr.cause.code = 24) ∧
    lockedState.quiet ∧ lockedState.locked = true ∧ lockedState.sample.nmiPending = true ∧
    ¬ (lockedState.csr.cause.interrupt = false ∧ lockedState.csr.cause.code = 24) := by
  unfold State.quiet; decide

/-- Asleep with MEXSTATUS.WFE = 0 and an interrupt request. -/
def sleeper : State :=
  { withCsr (beforeEntry 0 false) fun c => { c with ex := { c.ex with wfe := false } } with sleeping := true }

/-- In debug mode; locked up; asleep with nothing to wake it; asleep with an event; asleep with WFE = 0 and an interrupt above
MINTSTATUS.MIL. -/
theorem witness_WaitingSteps :
    (({ State.reset with debugMode := true } : State).quiet ∧
      ({ State.reset with debugMode := true } : State).debugMode = true) ∧
    (({ lockedState with nmiPending := false } : State).quiet ∧ lockedState.csr.ex.lockup = true ∧
      lockedState.lockupNmi = false ∧ ({ lockedState with nmiPending := false } : State).sample.nmiPending = false) ∧
    (({ State.reset with sleeping := true } : State).quiet ∧ State.reset.locked = false ∧
      ({ State.reset with sleeping := true } : State).sample.nmiPending = false ∧
      ({ State.reset with sleeping := true } : State).sample.interruptRequest = none ∧
      State.reset.sample.inputs.extEvent = false) ∧
    (({ State.reset with sleeping := true, inputs := { Inputs.idle with extEvent := true } } : State).quiet ∧
      ({ State.reset with sleeping := true, inputs := { Inputs.idle with extEvent := true } } : State).sample.csr.ex.wfe =
        true) ∧
    (sleeper.quiet ∧ sleeper.debugMode = false ∧ sleeper.locked = false ∧ sleeper.sleeping = true ∧
      sleeper.sample.csr.ex.wfe = false ∧
      ∃ x, sleeper.sample.interruptRequest = some x ∧ sleeper.sample.csr.mil < sleeper.sample.levelOf x) := by
  unfold State.quiet
  refine ⟨?_, ?_, ?_, ?_, ?_, ?_, ?_, ?_, ?_, ⟨_, rfl, ?_⟩⟩ <;> decide

/-- A state that holds a code at the pc, executing. -/
def codeState (l : List Byte) : State := withBytes (atPc 0x100 []) 0x100 l

/-- The same, the cache in use with a copy of the line. -/
def cachedCode (l : List Byte) : State :=
  { withCsr (codeState l) fun c => { c with icacheEnable := true } with
    icache := { unspecified := false, lines := [(0x10, some (memoryLine (codeState l).mem 0x10))] } }

/-- The same, an older value of the parcel remembered. -/
def codeWithOlder : State := { codeState [0x01, 0x00] with stale := [(0x100, 0x0505)] }

/-- One code of each length. -/
theorem witness_StepRunsDecodedInstruction :
    (codeState [0x01, 0x00]).executes ∧ (codeState [0x01, 0x00]).sample.fetchesMemory 0x100 ∧
    (codeState [0x01, 0x00]).sample.halfAt 0x100 = 1 ∧ (1 : Half).extractLsb' 0 2 ≠ 3#2 ∧
    decodeCode .reference (.c16 1) = .instr .cNop ∧
    (codeState [0x37, 0x55, 0x34, 0x12]).executes ∧ (codeState [0x37, 0x55, 0x34, 0x12]).sample.fetchesMemory 0x100 ∧
    (codeState [0x37, 0x55, 0x34, 0x12]).sample.fetchesMemory 0x102 ∧
    (codeState [0x37, 0x55, 0x34, 0x12]).sample.halfAt 0x100 = 0x5537 ∧
    (codeState [0x37, 0x55, 0x34, 0x12]).sample.halfAt 0x102 = 0x1234 ∧
    decodeCode .reference (.c32 0x12345537) = .instr (.lui 10 0x12345) := by
  unfold State.executes State.quiet State.running State.fetchesMemory
  decide

/-- Through the cache in use; past a remembered value, whichever of the two the fetch returns. -/
theorem witness_StepRunsDecodedInstruction_any :
    ((cachedCode [0x01, 0x00]).executes ∧ (cachedCode [0x01, 0x00]).sample.usesIcache 0x100 = true ∧
      ∃ u, (cachedCode [0x01, 0x00]).sample.fetchHalf 0x100 = .ok (1, u) ∧ decodeCode .reference (.c16 1) = .instr .cNop) ∧
    (codeWithOlder.executes ∧
      ∃ h u i, codeWithOlder.sample.fetchHalf 0x100 = .ok (h, u) ∧ decodeCode .reference (.c16 h) = .instr i) := by
  unfold State.executes State.quiet State.running
  refine ⟨⟨by decide, by decide, _, rfl, by decide⟩, by decide, ?_⟩
  rcases Nat.mod_two_eq_zero_or_one (Config.freeChoice codeWithOlder.sample.draws) with h | h
  · refine ⟨0x0505, codeWithOlder.sample.drawn, .cAddi 10 1, ?_, by decide⟩
    show Access.ok (([0x0505] : List Half).getD (Config.freeChoice codeWithOlder.sample.draws % 2) 1, _) = _
    rw [h]; rfl
  · refine ⟨1, codeWithOlder.sample.drawn, .cNop, ?_, by decide⟩
    show Access.ok (([0x0505] : List Half).getD (Config.freeChoice codeWithOlder.sample.draws % 2) 1, _) = _
    rw [h]; rfl

/-- The machine after reset with RESET_ADDR in the TCIP region (70 R521). -/
def resetInTcip : State := State.resetWith { Config.reference with resetAddrHi := 0x3A000000 }

/-- The PMP denies the first half; RESET_ADDR is in the TCIP region, in the first step and later; the bus fails it; the bus fails the second half; a code of each length is illegal. -/
theorem witness_FetchFaultStep :
    ((inUser (codeState [])).executes ∧ (inUser (codeState [])).sample.pmpAllows .user .fetch 0x100 = false) ∧
    (resetInTcip.executes ∧ resetInTcip.sinceReset = .fresh ∧ inTcip resetInTcip.pc = true ∧
      resetInTcip.sample.pmpAllows .machine .fetch resetInTcip.pc = true ∧ resetInTcip.pc = resetInTcip.cfg.resetAddr ∧
      ({ resetInTcip with sinceReset := .first } : State).executes) ∧
    ((withErrors (atPc 0x2000 [])).executes ∧ inTcip 0x2000 = false ∧
      (withErrors (atPc 0x2000 [])).sample.busError 0x2000 .half .fetch = true) ∧
    ((withErrors (withBytes (atPc 0x1FFE []) 0x1FFE [0xFF, 0xFF])).executes ∧
      (withErrors (withBytes (atPc 0x1FFE []) 0x1FFE [0xFF, 0xFF])).sample.fetchesMemory 0x1FFE ∧
      (withErrors (withBytes (atPc 0x1FFE []) 0x1FFE [0xFF, 0xFF])).sample.halfAt 0x1FFE = 0xFFFF ∧
      (withErrors (withBytes (atPc 0x1FFE []) 0x1FFE [0xFF, 0xFF])).sample.busError 0x2000 .half .fetch = true) ∧
    ((codeState []).executes ∧ (codeState []).sample.fetchesMemory 0x100 ∧ (codeState []).sample.halfAt 0x100 = 0 ∧
      decodeCode .reference (.c16 0) = .illegal) ∧
    ((codeState [0xFF, 0xFF, 0xFF, 0xFF]).executes ∧ (codeState [0xFF, 0xFF, 0xFF, 0xFF]).sample.fetchesMemory 0x100 ∧
      (codeState [0xFF, 0xFF, 0xFF, 0xFF]).sample.fetchesMemory 0x102 ∧
      decodeCode .reference (.c32 0xFFFFFFFF) = .illegal) := by
  unfold State.executes State.quiet State.running State.fetchesMemory
  refine ⟨?_, ?_, ?_, ?_, ?_, ?_⟩ <;> decide

/-- Through the cache in use, codes of both lengths that are illegal; a second half in the TCIP region; a second half the bus
fails; a halfword under `RVC_CONSTRAINT_VIOLATION = refuse`. -/
theorem witness_FetchFaultStep_any :
    ((cachedCode []).executes ∧ ∃ u, (cachedCode []).sample.fetchHalf 0x100 = .ok (0, u) ∧
      decodeCode .reference (.c16 0) = .illegal) ∧
    ((cachedCode [0xFF, 0xFF, 0xFF, 0xFF]).executes ∧
      ∃ u v, (cachedCode [0xFF, 0xFF, 0xFF, 0xFF]).sample.fetchHalf 0x100 = .ok (0xFFFF, u) ∧
        u.fetchHalf 0x102 = .ok (0xFFFF, v) ∧ decodeCode .reference (.c32 0xFFFFFFFF) = .illegal) ∧
    ((withBytes (atPc 0xDFFFFFFE []) 0xDFFFFFFE [0x37, 0x55]).executes ∧
      (∃ u, (withBytes (atPc 0xDFFFFFFE []) 0xDFFFFFFE [0x37, 0x55]).sample.fetchHalf 0xDFFFFFFE = .ok (0x5537, u)) ∧
      (withBytes (atPc 0xDFFFFFFE []) 0xDFFFFFFE [0x37, 0x55]).sample.pmpAllows .machine .fetch 0xE0000000 = true ∧
      inTcip (0xDFFFFFFE + 2) = true) ∧
    ((withErrors (withBytes (atPc 0x1FFE []) 0x1FFE [0xFF, 0xFF])).executes ∧
      ∃ u, (withErrors (withBytes (atPc 0x1FFE []) 0x1FFE [0xFF, 0xFF])).sample.fetchHalf 0x1FFE = .ok (0xFFFF, u)) ∧
    decodeCode { Config.reference with rvcViolation := .refuse } (.c16 0x6101) = .constraint := by
  unfold State.executes State.quiet State.running
  exact ⟨⟨by decide, _, rfl, by decide⟩, ⟨by decide, _, _, rfl, rfl, by decide⟩,
    ⟨by decide, ⟨_, rfl⟩, by decide, by decide⟩, ⟨by decide, _, rfl⟩, by decide⟩

theorem witness_StepKeepsInv : State.reset.Inv ∧ afterStep State.reset (fun t => t.csr.cause.code == 2) = true :=
  ⟨⟨by decide, by decide, by decide, by decide, by decide, by decide,
    ⟨by decide, by decide, by decide⟩, ⟨by decide, by decide⟩, by decide⟩, by decide⟩

theorem witness_ResetValues : Config.reference.layout = .reference ∧ 31 ∈ sourceIds .reference := by decide

/-- What the debugger replaces the state after reset by: a locked PMP entry, a raised level, LOCKUP, a byte of memory. -/
def replacement : Snapshot where
  regs := Vector.replicate 16 1
  pc := 0x200
  priv := .user
  csr := { Csrs.afterReset with mil := 0x7F, ex := { Csrs.afterReset.ex with lockup := true } }
  mcycle := 0
  minstret := 0
  mcpuidNext := 0
  pmp := pmpState.pmp
  clint := { msip := false, mtimecmp := 0 }
  clic := State.reset.clic
  icache := .empty
  stale := []
  sleeping := false
  nmiPending := false
  lockupNmi := false
  mem := []

/-- The state `DebugUnitEvents` compares with. -/
def replaced (s : State) (m : Snapshot) : State :=
  { s with
    regs := m.regs, pc := m.pc, priv := m.priv, csr := m.csr, mcycle := m.mcycle, minstret := m.minstret
    mcpuidNext := m.mcpuidNext, pmp := m.pmp, clint := m.clint, clic := m.clic, icache := m.icache, stale := m.stale
    sleeping := m.sleeping, nmiPending := m.nmiPending, lockupNmi := m.lockupNmi }

/-- In debug mode, locked or not, and with a state to replace it by; a DDMA word transfer in both modes. -/
theorem witness_DebugUnitEvents :
    ({ State.reset with debugMode := true } : State).debugMode = true ∧ lockedState.csr.ex.lockup = true ∧
    ({ State.reset with debugMode := true } : State).Inv ∧
    (replaced { State.reset with debugMode := true } replacement).Inv ∧ replacement.mem = [] ∧
    ({ State.reset with had := { Had.afterReset with ddae := true, transSize := 2 } } : State).had.transMode ≤ 1 ∧
    ({ State.reset with had := { Had.afterReset with ddae := true, transSize := 2, transMode := 1 } } : State).had.transMode
      ≤ 1 ∧
    inTcip State.reset.had.datr = false ∧ State.reset.busError State.reset.had.datr .word .store = false ∧
    State.reset.busError State.reset.had.datr .word .fetch = false ∧ State.reset.had.dataPhase = false ∧
    State.reset.cfg.layout = .reference :=
  ⟨by decide, by decide,
    ⟨by decide, by decide, by decide, by decide, by decide, by decide,
      ⟨by decide, by decide, by decide⟩, ⟨by decide, by decide⟩, by decide⟩,
    ⟨by decide, by decide, by decide, by decide, by decide, by decide,
      ⟨by decide, by decide, by decide⟩, ⟨by decide, by decide⟩, by decide⟩,
    by decide, by decide, by decide, by decide, by decide, by decide, by decide, by decide⟩

end Sys2Proof.Tests
end

/-! SUPPORT. The invariant `State.Inv`: each operation of the model keeps it and the configuration, said once per operation;
the step is put together from them (`StepKeepsInv`, `ResetInv`). -/

namespace Sys2Proof.Machine

/-! ### Even addresses and tied bits -/

/-- The parity of a sum. -/
theorem even_add {a b : Word} (ha : a.getLsbD 0 = false) (hb : b.getLsbD 0 = false) : (a + b).getLsbD 0 = false := by
  rw [BitVec.getLsbD_add (by decide), ha, hb]
  simp

/-- Clearing bit 0 leaves an even value. -/
theorem even_and_mask (v : Word) : (v &&& 0xFFFFFFFE#32).getLsbD 0 = false := by simp

theorem trapVector_even (s : State) : s.trapVector.getLsbD 0 = false := by
  rw [State.trapVector, BitVec.getLsbD_append]
  rfl

/-- Bits forced to 1 by `|||` are 1. -/
theorem and_not_or_self {n : Nat} (m v : BitVec n) : m &&& ~~~ (v ||| m) = 0 := by
  ext i hi
  simp only [BitVec.getElem_and, BitVec.getElem_not, BitVec.getElem_or]
  cases m[i] <;> simp

/-! ### Operations that keep the invariant -/

/-- From `s` with the invariant, `t` has it too, under the same configuration. -/
def PreservesInv (s t : State) : Prop := s.Inv → t.Inv ∧ t.cfg = s.cfg

theorem PreservesInv.refl (s : State) : PreservesInv s s := fun h => ⟨h, rfl⟩

theorem PreservesInv.trans {s t u : State} (h : PreservesInv s t) (k : PreservesInv t u) : PreservesInv s u := by
  intro inv
  obtain ⟨inv, cfg⟩ := h inv
  obtain ⟨inv, cfg'⟩ := k inv
  exact ⟨inv, cfg'.trans cfg⟩

theorem preserves_setReg (s : State) (r : Reg) (v : Word) : PreservesInv s (s.setReg r v) := by
  unfold State.setReg
  split
  · exact .refl s
  · exact fun inv => ⟨{ inv with }, rfl⟩

theorem preserves_retire (s : State) {pc : Word} (even : pc.getLsbD 0 = false) : PreservesInv s (s.retire pc) :=
  fun inv => ⟨{ inv with pcEven := even }, rfl⟩

theorem preserves_advance (s : State) {n : Word} (even : n.getLsbD 0 = false) : PreservesInv s (s.advance n) :=
  fun inv => preserves_retire s (even_add inv.pcEven even) inv

theorem preserves_lockUp (s : State) : PreservesInv s s.lockUp := fun inv => ⟨{ inv with }, rfl⟩

/-- On a core without user mode the mode and MPP stay machine: MPP takes the old mode. -/
theorem preserves_enterException (s : State) (e : Exc) : PreservesInv s (s.enterException e) :=
  fun inv => ⟨{ inv with
    pcEven := trapVector_even s
    mepcEven := inv.pcEven
    modes := fun h => ⟨rfl, (inv.modes h).1⟩ }, rfl⟩

theorem preserves_trapEntry (s : State) (e : Exc) : PreservesInv s (s.trapEntry e) := by
  rcases trapEntry_cases s e with ⟨_, h⟩ | ⟨_, h⟩ <;> rw [h]
  · exact preserves_lockUp s
  · exact preserves_enterException s e

theorem mppAfterReturn_of_noUmode {c : Config} (h : c.hasUmode = false) : mppAfterReturn c = .machine := by
  simp [mppAfterReturn, h]

/-- Without user mode MPP stays machine whatever is written. -/
theorem legalMpp_of_noUmode {s : State} (h : s.cfg.hasUmode = false) (old : s.csr.status.mpp = .machine)
    (b : BitVec 2) : s.legalMpp b = .machine := by
  unfold State.legalMpp
  split
  · rfl
  · simp only [h, old]
    cases s.cfg.mppIllegalWrite <;> simp

theorem preserves_trapReturn (s : State) : PreservesInv s s.trapReturn :=
  fun inv => ⟨{ inv with
    pcEven := inv.mepcEven
    modes := fun h => ⟨(inv.modes h).2, mppAfterReturn_of_noUmode h⟩ }, rfl⟩

theorem preserves_nmiReturn (s : State) : PreservesInv s s.nmiReturn :=
  fun inv => ⟨{ inv with
    pcEven := inv.mepcEven
    mepcEven := inv.mnmipcEven
    modes := fun h => ⟨(inv.modes h).2, legalMpp_of_noUmode (s := s) h (inv.modes h).2 _⟩ }, rfl⟩

theorem preserves_nmiEntry (s : State) : PreservesInv s s.nmiEntry :=
  fun inv => ⟨{ inv with
    pcEven := trapVector_even s
    mepcEven := inv.pcEven
    mnmipcEven := inv.mepcEven
    modes := fun h => ⟨rfl, (inv.modes h).1⟩ }, rfl⟩

/-! ### The CLIC -/

/-- A change of the sources that keeps each id and the tied bits of each CLICINTCTL keeps the CLIC legal. -/
theorem Clic.Legal.map_sources {x : Clic} {c : Config} (h : x.Legal c) {f : ClicSource → ClicSource}
    (id : ∀ y, (f y).id = y.id)
    (tied : ∀ y, (0xFF#8 >>> c.ctlBits.toNat) &&& ~~~ y.ctl = 0 → (0xFF#8 >>> c.ctlBits.toNat) &&& ~~~ (f y).ctl = 0) :
    Clic.Legal { x with sources := x.sources.map f } c where
  ids := by simpa [Function.comp_def, id] using h.ids
  tied := by
    intro z hz
    obtain ⟨y, hy, rfl⟩ := List.mem_map.1 hz
    exact tied y (h.tied y hy)

/-- A change of the sources that leaves ids and CLICINTCTL as they are keeps the invariant. -/
theorem preserves_map_sources (s : State) {f : ClicSource → ClicSource} (id : ∀ y, (f y).id = y.id)
    (ctl : ∀ y, (f y).ctl = y.ctl) :
    PreservesInv s { s with clic := { s.clic with sources := s.clic.sources.map f } } :=
  fun inv => ⟨{ inv with clic := inv.clic.map_sources id fun y h => by rwa [ctl y] }, rfl⟩

theorem acknowledge_id (x : ClicSource) : x.acknowledge.id = x.id := by
  unfold ClicSource.acknowledge; split <;> rfl

theorem acknowledge_ctl (x : ClicSource) : x.acknowledge.ctl = x.ctl := by
  unfold ClicSource.acknowledge; split <;> rfl

theorem preserves_acknowledge (s : State) (n : Nat) : PreservesInv s (s.setSource n ClicSource.acknowledge) :=
  preserves_map_sources s (f := fun x => if x.id = n then x.acknowledge else x)
    (fun y => by split <;> simp [acknowledge_id]) fun y => by split <;> simp [acknowledge_ctl]

theorem preserves_sample (s : State) : PreservesInv s s.sample :=
  fun inv => ⟨{ inv with clic := inv.clic.map_sources (fun _ => rfl) fun _ h => h }, rfl⟩

theorem preserves_forgetEdges (s : State) : PreservesInv s s.forgetEdges :=
  preserves_map_sources s (fun _ => rfl) fun _ => rfl

/-- What each of the four byte writes keeps, a store to the byte registers of a source keeps. -/
theorem ClicSource.store_keeps {P : ClicSource → Prop} {c : Config} {x : ClicSource} (start : P x)
    (ip : ∀ y b, P y → P (y.writeIp b)) (ie : ∀ y b, P y → P (y.writeIe b)) (attr : ∀ y b, P y → P (y.writeAttr b))
    (ctl : ∀ y b, P y → P (y.writeCtl c b)) (first : Nat) (size : AccessSize) (v : Word) :
    P (x.store c first size v) := by
  have byte : ∀ (f : ClicSource → Byte → ClicSource), (∀ y b, P y → P (f y b)) → ∀ k y, P y →
      P (match storedByte first size v k with | none => y | some b => f y b) := by
    intro f hf k y hy
    split
    · exact hy
    · exact hf y _ hy
  exact byte _ ctl 3 _ (byte _ attr 2 _ (byte _ ie 1 _ (byte _ ip 0 _ start)))

theorem writeIp_id (x : ClicSource) (b : Byte) : (x.writeIp b).id = x.id := by
  unfold ClicSource.writeIp; split <;> rfl

theorem writeIp_ctl (x : ClicSource) (b : Byte) : (x.writeIp b).ctl = x.ctl := by
  unfold ClicSource.writeIp; split <;> rfl

theorem ClicSource.store_id (c : Config) (x : ClicSource) (first : Nat) (size : AccessSize) (v : Word) :
    (x.store c first size v).id = x.id :=
  ClicSource.store_keeps (P := fun y => y.id = x.id) rfl (fun y b h => (writeIp_id y b).trans h) (fun _ _ h => h)
    (fun _ _ h => h) (fun _ _ h => h) first size v

/-- A store to the byte registers of a source leaves the tied bits of CLICINTCTL 1. -/
theorem ClicSource.store_tied {c : Config} {x : ClicSource} (h : (0xFF#8 >>> c.ctlBits.toNat) &&& ~~~ x.ctl = 0)
    (first : Nat) (size : AccessSize) (v : Word) :
    (0xFF#8 >>> c.ctlBits.toNat) &&& ~~~ (x.store c first size v).ctl = 0 :=
  ClicSource.store_keeps (P := fun y => (0xFF#8 >>> c.ctlBits.toNat) &&& ~~~ y.ctl = 0) h
    (fun y b h => by rwa [writeIp_ctl]) (fun _ _ h => h) (fun _ _ h => h) (fun _ _ _ => and_not_or_self _ _) first size v

theorem preserves_storeSource (s : State) (n first : Nat) (size : AccessSize) (v : Word) :
    PreservesInv s (s.setSource n fun x => x.store s.cfg first size v) := by
  refine fun inv => ⟨{ inv with clic := inv.clic.map_sources (fun y => ?_) fun y h => ?_ }, rfl⟩
  · split
    · exact y.store_id s.cfg first size v
    · rfl
  · split
    · exact ClicSource.store_tied h first size v
    · exact h

theorem preserves_tcipStore (s : State) (r : TcipReg) (size : AccessSize) (v : Word) :
    PreservesInv s (s.tcipStore r size v) := by
  cases r
  case source id byte => exact preserves_storeSource s id byte size v
  case cliccfg => exact fun inv => ⟨{ inv with clic := { inv.clic with } }, rfl⟩
  case minththresh => exact fun inv => ⟨{ inv with clic := { inv.clic with } }, rfl⟩
  all_goals exact fun inv => ⟨{ inv with }, rfl⟩

theorem preserves_tcipWrite {s t : State} {a : Word} {size : AccessSize} {v : Word}
    (h : s.tcipWrite a size v = some t) : PreservesInv s t := by
  obtain ⟨r, _, rfl⟩ := Option.map_eq_some_iff.1 h
  exact preserves_tcipStore s r size v

/-! ### Stores and interrupt entry -/

theorem preserves_memWrite {s t : State} {a : Word} {size : AccessSize} {v : Word}
    (h : s.memWrite a size v = .ok t) : PreservesInv s t := by
  rcases memWrite_cases s a size v with ⟨_, e⟩ | ⟨_, _, _, _, ⟨u, hu, e⟩ | ⟨_, e⟩⟩ | ⟨_, e⟩ | ⟨_, e⟩ <;>
    rw [e] at h <;> cases h
  · exact fun inv => ⟨{ inv with memory := State.storeBytes_wf inv.memory a size v }, rfl⟩
  · exact preserves_tcipWrite hu

theorem preserves_enterInterrupt (s : State) (x : ClicSource) {pc : Word} (even : pc.getLsbD 0 = false) :
    PreservesInv s { s.enterInterrupt x with pc := pc } :=
  fun inv => ⟨{ inv with
    pcEven := even
    mepcEven := inv.pcEven
    modes := fun h => ⟨rfl, (inv.modes h).1⟩ }, rfl⟩

theorem preserves_interruptEntry {s t : State} {x : ClicSource} (h : interruptEntry s x = .next t) :
    PreservesInv s t := by
  unfold interruptEntry at h
  split at h
  · split at h
    · cases h
    · next w _ =>
      cases h
      refine (preserves_enterInterrupt s x (even_and_mask w)).trans (.trans (preserves_acknowledge _ x.id) ?_)
      exact fun inv => ⟨{ inv with }, rfl⟩
  · cases h
    exact preserves_enterInterrupt s x (trapVector_even s)

/-! ### PMP registers -/

theorem and_9F_reserved (v : Byte) : (v &&& 0x9F#8).extractLsb' 5 2 = 0 := by
  ext i hi
  rcases i with _ | _ | i <;> simp; omega

/-- One byte of a PMPCFG write, entry by entry. -/
theorem getElem_writePmpByte (count : Nat) (bytes : Vector Byte 16) (i : Fin 16) (v : Byte) (j : Nat) (hj : j < 16) :
    (writePmpByte count bytes i v)[j] =
      if j = i.val ∧ i.val < count ∧ pmpLocked bytes[i.val] = false then v &&& 0x9F else bytes[j] := by
  unfold writePmpByte
  by_cases h : i.val < count ∧ pmpLocked bytes[i.val] = false
  · simp [h, Vector.getElem_set, eq_comm]
  · rw [if_neg h, if_neg fun k => h k.2]

theorem Pmp.Legal.writeByte {p : Pmp} {count : Nat} (h : p.Legal count) (i : Fin 16) (v : Byte) :
    Pmp.Legal { p with cfg := writePmpByte count p.cfg i v } count where
  absentCfg j hj := by
    rw [getElem_writePmpByte, if_neg]
    · exact h.absentCfg j hj
    · rintro ⟨e, hi, _⟩; omega
  absentAddr := h.absentAddr
  reserved j := by
    rw [getElem_writePmpByte]
    split
    · exact and_9F_reserved v
    · exact h.reserved j

theorem preserves_writePmpcfg (s : State) (k : Fin 4) (v : Word) : PreservesInv s (s.writePmpcfg k v) :=
  fun inv => ⟨{ inv with
    pmp := (((inv.pmp.writeByte _ _).writeByte _ _).writeByte _ _).writeByte _ _ }, rfl⟩

theorem preserves_writePmpaddr (s : State) (i : Fin 16) (v : Word) : PreservesInv s (s.writePmpaddr i v) := by
  unfold State.writePmpaddr
  split
  · next hi =>
    refine fun inv => ⟨{ inv with pmp := { inv.pmp with absentAddr := fun j hj => ?_ } }, rfl⟩
    replace hj : s.cfg.pmpEntries.toNat ≤ j.val := hj
    have hne : i.val ≠ j.val := by omega
    simpa [Vector.getElem_set, hne] using inv.pmp.absentAddr j hj
  · exact .refl s

theorem Pmp.legal_legal (p : Pmp) (count : Nat) : (p.legal count).Legal count where
  absentCfg i hi := by simp [Pmp.legal, hi]
  absentAddr i hi := by simp [Pmp.legal, hi]
  reserved i := by
    by_cases h : i.val < count
    · simpa [Pmp.legal, h] using and_9F_reserved _
    · simp [Pmp.legal, h]

/-! ### Control registers -/

theorem preserves_writePrevious (s : State) (mpie : Bool) (mpp : BitVec 2) :
    PreservesInv s (s.writePrevious mpie mpp) :=
  fun inv => ⟨{ inv with
    modes := fun h => ⟨(inv.modes h).1, legalMpp_of_noUmode (s := s) h (inv.modes h).2 mpp⟩ }, rfl⟩

theorem preserves_writeMstatus (s : State) (v : Word) : PreservesInv s (s.writeMstatus v) :=
  (preserves_writePrevious s (v.getLsbD s.cfg.layout.mstatusMpie) _).trans fun inv => ⟨{ inv with }, rfl⟩

theorem preserves_writeMcause (s : State) (v : Word) : PreservesInv s (s.writeMcause v) :=
  (preserves_writePrevious s (v.getLsbD 27) _).trans fun inv => ⟨{ inv with }, rfl⟩

theorem preserves_writeMexstatus (s : State) (v : Word) : PreservesInv s (s.writeMexstatus v) := by
  refine fun inv => ⟨{ inv with lpmd := ?_ }, rfl⟩
  dsimp only [State.writeMexstatus]
  split
  · exact inv.lpmd
  · next h => simpa using h

/-- A write of any control register keeps the invariant. -/
theorem preserves_csrWrite (s : State) (r : Csr) (v : Word) : PreservesInv s (s.csrWrite r v) := by
  cases r
  case mstatus => exact preserves_writeMstatus s v
  case mcause => exact preserves_writeMcause s v
  case mexstatus => exact preserves_writeMexstatus s v
  case pmpcfg k => exact preserves_writePmpcfg s k v
  case pmpaddr i => exact preserves_writePmpaddr s i v
  case mepc => exact fun inv => ⟨{ inv with mepcEven := even_and_mask v }, rfl⟩
  case mnmipc => exact fun inv => ⟨{ inv with mnmipcEven := even_and_mask v }, rfl⟩
  case mhcr =>
    dsimp only [State.csrWrite]
    split
    · exact fun inv => ⟨{ inv with }, rfl⟩
    · exact .refl s
  all_goals exact fun inv => ⟨{ inv with }, rfl⟩

theorem preserves_csrRead (s : State) (r : Csr) : PreservesInv s (s.csrRead r).2 := by
  obtain ⟨_, _, _, e⟩ := csrRead_changes s r
  rw [e]
  exact fun inv => ⟨{ inv with }, rfl⟩

theorem preserves_csrExchange (s : State) (r : Csr) (rd : Reg) (op : CsrOp) (imm : Bool) (v : Word) (performs : Bool) :
    PreservesInv s (s.csrExchange r rd op imm v performs) := by
  have write : PreservesInv s (if performs then (s.csrRead r).2.csrWrite r (csrNew s.cfg op imm (s.csrRead r).1 v)
      else (s.csrRead r).2) := by
    split
    · exact (preserves_csrRead s r).trans (preserves_csrWrite _ r _)
    · exact preserves_csrRead s r
  have both := write.trans (preserves_setReg _ rd (s.csrRead r).1)
  unfold State.csrExchange
  dsimp only
  split
  · exact both.trans fun inv => ⟨{ inv with pcEven := even_add inv.pcEven (b := 4) (by decide) }, rfl⟩
  · exact both.trans (preserves_advance _ (by decide))

theorem preserves_scratchSwap (s : State) (swap : Bool) (rd : Reg) (v : Word) :
    PreservesInv s (s.scratchSwap swap rd v) := by
  rw [scratchSwap_changes]
  refine .trans ?_ ((preserves_setReg _ rd _).trans (preserves_advance _ (by decide)))
  exact fun inv => ⟨{ inv with }, rfl⟩

theorem preserves_claimNext (s : State) (rd : Reg) : PreservesInv s (s.claimNext rd) := by
  unfold State.claimNext
  split
  · exact preserves_setReg s rd 0
  · refine .trans ?_ (.trans (preserves_acknowledge _ _) (preserves_setReg _ rd _))
    exact fun inv => ⟨{ inv with }, rfl⟩

theorem preserves_mnxtiAccess (s : State) (rd : Reg) (op : CsrOp) (v : Word) :
    PreservesInv s (s.mnxtiAccess rd op v) :=
  (preserves_writeMstatus s _).trans ((preserves_claimNext _ rd).trans (preserves_advance _ (by decide)))

/-! ### Instructions -/

/-- Every instruction keeps the invariant: by the kinds of next state of `exec_effect`. -/
theorem preserves_effect {i : Instr} {s t : State} (h : ExecEffect i s t) : PreservesInv s t := by
  cases h with
  | compute rd v d even =>
    exact fun inv => ((preserves_setReg s rd v).trans (preserves_retire _ (even_add inv.pcEven even))) inv
  | jump rd v target => exact (preserves_setReg s rd v).trans (preserves_retire _ (even_and_mask target))
  | store a size v n u done even => exact (preserves_memWrite done).trans (preserves_advance u even)
  | trap e => exact preserves_trapEntry s e
  | cache c l =>
    refine .trans (t := { s with icache := c, stale := l }) ?_ (preserves_advance _ (by decide))
    exact fun inv => ⟨{ inv with }, rfl⟩
  | debug => exact fun inv => ⟨{ inv with }, rfl⟩
  | trapReturn => exact preserves_trapReturn s
  | nmiReturn => exact preserves_nmiReturn s
  | wait => exact (preserves_advance s (by decide)).trans fun inv => ⟨{ inv with }, rfl⟩
  | mnxti _ rd op v => exact preserves_mnxtiAccess s rd op v
  | scratch _ swap rd v => exact preserves_scratchSwap s swap rd v
  | csr _ r rd op imm v performs => exact preserves_csrExchange s r rd op imm v performs

theorem preserves_fetch (s : State) : PreservesInv s s.fetch.2 := by
  obtain ⟨_, _, e⟩ := fetch_changes s
  rw [e]
  exact fun inv => ⟨{ inv with }, rfl⟩

theorem preserves_runInstruction {s t : State} (h : s.runInstruction = .next t) : PreservesInv s t := by
  refine (preserves_fetch s).trans ?_
  rcases runInstruction_cases s with ⟨e, _, k⟩ | ⟨r, _, k⟩ | ⟨code, i, _, _, k⟩ | ⟨code, _, _, k⟩ | ⟨code, _, _, k⟩ <;>
    rw [k] at h
  · cases h; exact preserves_trapEntry _ e
  · cases h
  · exact preserves_effect (exec_effect h)
  · cases h; exact preserves_trapEntry _ _
  · cases h

theorem preserves_boundary {s t : State} (h : s.boundary = .next t) : PreservesInv s t := by
  rcases boundary_cases s with ⟨_, k⟩ | ⟨_, x, _, k⟩ | ⟨_, _, k⟩ <;> rw [k] at h
  · cases h; exact preserves_nmiEntry s
  · exact preserves_interruptEntry h
  · exact preserves_runInstruction h

theorem preserves_wakeUp (s : State) : PreservesInv s s.wakeUp := by
  unfold State.wakeUp
  split
  · exact fun inv => ⟨{ inv with }, rfl⟩
  · exact .refl s

theorem preserves_hartTurn {s t : State} (h : s.hartTurn = .next t) : PreservesInv s t := by
  rcases hartTurn_cases s with ⟨_, k⟩ | ⟨_, _, _, k⟩ | ⟨_, _, _, k⟩ | ⟨_, _, _, _, k⟩ | ⟨_, _, _, k⟩ <;> rw [k] at h
  · cases h; exact .refl s
  · cases h; exact (preserves_nmiEntry s).trans fun inv => ⟨{ inv with }, rfl⟩
  · cases h; exact .refl s
  · cases h; exact .refl s
  · exact (preserves_wakeUp s).trans (preserves_boundary h)

/-! ### Reset -/

theorem resetAddr_even (c : Config) : c.resetAddr.getLsbD 0 = false := by
  rw [Config.resetAddr, BitVec.getLsbD_append]
  rfl

/-- The CLIC after reset has one record for each id, its CLICINTCTL holding the tied bits only. -/
theorem resetWith_clic_legal (c : Config) : (State.resetWith c).clic.Legal c where
  ids := by simp [State.resetWith, Function.comp_def, ClicSource.afterReset]
  tied := by
    intro y hy
    obtain ⟨id, _, rfl⟩ := List.mem_map.1 hy
    simp [ClicSource.afterReset]

theorem resetWith_inv (c : Config) : (State.resetWith c).Inv where
  memory := State.resetWith_mem_wf c
  pcEven := resetAddr_even c
  mepcEven := by simp [State.resetWith, Csrs.afterReset]
  mnmipcEven := by simp [State.resetWith, Csrs.afterReset]
  modes _ := ⟨rfl, rfl⟩
  lpmd := by simp [State.resetWith, Csrs.afterReset]
  pmp := by constructor <;> intro i <;> simp [State.resetWith]
  clic := resetWith_clic_legal c
  prot := by simp [State.resetWith, Had.afterReset]

theorem preserves_afterReset (s : State) (n : BitVec 64) : PreservesInv s (s.afterReset n) :=
  fun inv => ⟨{ resetWith_inv s.cfg with memory := inv.memory, prot := inv.prot }, rfl⟩

/-! ### The host's turn -/

theorem preserves_debugLeave (s : State) (pc : Word) : PreservesInv s (s.debugLeave pc) := by
  unfold State.debugLeave
  split
  · exact fun inv => ⟨{ inv with }, rfl⟩
  · split <;> exact fun inv => ⟨{ inv with pcEven := even_and_mask pc }, rfl⟩

theorem preserves_writeBytes (s : State) (a : Word) (size : AccessSize) (v : Word) :
    PreservesInv s (s.writeBytes a size v) :=
  fun inv => ⟨{ inv with memory := State.writeBytes_wf inv.memory a size v }, rfl⟩

theorem preserves_outsideStore (s : State) (a : Word) (size : AccessSize) (v : Word) :
    PreservesInv s (s.outsideStore a size v) := by
  unfold State.outsideStore
  split
  · exact .refl s
  · split
    · cases h : s.tcipWrite a size v with
      | none => exact .refl s
      | some t => exact preserves_tcipWrite h
    · split
      · exact .refl s
      · exact preserves_writeBytes s a size v

/-- A change of the debug unit that keeps TRANS PROT bit 2 keeps the invariant. -/
theorem preserves_had (s : State) {h : Had} (prot : s.had.transProt.getLsbD 2 = false → h.transProt.getLsbD 2 = false) :
    PreservesInv s { s with had := h } :=
  fun inv => ⟨{ inv with prot := prot inv.prot }, rfl⟩

theorem preserves_ddmaWrite {s t : State} {v : Word} (h : s.ddmaWrite v = .ok t) : PreservesInv s t := by
  unfold State.ddmaWrite at h
  split at h
  · cases h; exact .refl s
  · split at h
    · next size _ _ =>
      split at h
      · split at h
        · next u hu =>
          cases h
          split at hu
          · exact (preserves_tcipWrite hu).trans (preserves_had u id)
          · cases hu
        · cases h
      · split at h <;> cases h
        · exact preserves_had s id
        · exact (preserves_writeBytes s _ size v).trans (preserves_had _ id)
    · cases h

theorem preserves_ddmaRead {s t : State} (h : s.ddmaRead = .ok t) : PreservesInv s t := by
  unfold State.ddmaRead at h
  split at h
  · cases h; exact preserves_had s id
  · split at h
    · cases h; exact .refl s
    · split at h
      · split at h
        · split at h <;> cases h
          exact preserves_had s id
        · split at h <;> cases h <;> exact preserves_had s id
      · cases h

/-- The source that takes over a replacing CLIC's registers keeps its id and has its tied bits 1. -/
theorem Clic.Legal.replacedBy {x : Clic} {c : Config} (h : x.Legal c) (y : Clic) : (x.replacedBy y c).Legal c := by
  unfold Clic.replacedBy
  refine ⟨?_, ?_⟩
  · rw [← h.ids, List.map_map]
    refine List.map_congr_left fun a _ => ?_
    dsimp only [Function.comp_apply]
    split <;> rfl
  · intro z hz
    obtain ⟨a, ha, rfl⟩ := List.mem_map.1 hz
    split
    · exact h.tied a ha
    · exact and_not_or_self _ _

theorem preserves_replacedBy (s : State) (m : Snapshot) : PreservesInv s (s.replacedBy m) := by
  refine fun inv => ⟨?_, rfl⟩
  exact {
    memory := Memory.patch_wf inv.memory m.mem
    pcEven := even_and_mask m.pc
    mepcEven := even_and_mask m.csr.mepc
    mnmipcEven := even_and_mask m.csr.mnmipc
    modes := fun h => by simp_all [Csrs.legal, legalPriv]
    lpmd := by
      dsimp only [State.replacedBy_csr, Csrs.legal]
      split
      · rfl
      · next h => simpa using h
    pmp := m.pmp.legal_legal _
    clic := inv.clic.replacedBy m.clic
    prot := inv.prot }

theorem preserves_debugPriv (s : State) (p : Priv) :
    PreservesInv s (if p = .user ∧ s.cfg.hasUmode = false then s else { s with priv := p }) := by
  split
  · exact .refl s
  · next h =>
    refine fun inv => ⟨{ inv with modes := fun k => ⟨?_, (inv.modes k).2⟩ }, rfl⟩
    cases p
    · rfl
    · exact absurd ⟨rfl, k⟩ h

theorem preserves_inDebug (s : State) {f : State → State} (h : PreservesInv s (f s)) : PreservesInv s (s.inDebug f) := by
  unfold State.inDebug
  split
  · exact h
  · exact .refl s

/-- Every host event keeps the invariant. -/
theorem preserves_hostEvent {s t : State} {e : HostEvent} (h : s.hostEvent e = .ok t) : PreservesInv s t := by
  cases e <;> simp only [State.hostEvent, Except.ok.injEq] at h
  case hadWriteDarwr => exact preserves_ddmaWrite h
  case hadReadDarwr => exact preserves_ddmaRead h
  all_goals subst h
  case reset n => exact preserves_afterReset s n
  case debugExit pc => exact preserves_inDebug s (preserves_debugLeave s pc)
  case debugReg r v => exact preserves_inDebug s (preserves_setReg s r v)
  case debugCsr n v =>
    refine preserves_inDebug s ?_
    cases csr? n with
    | none => exact .refl s
    | some r => exact preserves_csrWrite s r v
  case debugPriv p => exact preserves_inDebug s (preserves_debugPriv s p)
  case debugReplace m => exact preserves_inDebug s (preserves_replacedBy s m)
  case debugStore a size v => exact preserves_inDebug s (preserves_outsideStore s a size v)
  case debugExptVld => exact preserves_inDebug s fun inv => ⟨{ inv with }, rfl⟩
  case masterWrite a v =>
    split
    · exact .refl s
    · exact preserves_writeBytes s a .byte _
  case hadReset => exact preserves_had s fun _ => rfl
  case hadDacsr v => exact preserves_had s fun _ => by simp [Had.writeDacsr]
  all_goals exact fun inv => ⟨{ inv with }, rfl⟩

theorem preserves_hostEvents {s t : State} {l : List HostEvent} (h : s.hostEvents l = .ok t) : PreservesInv s t := by
  induction l generalizing s with
  | nil => cases h; exact .refl _
  | cons e l ih =>
    unfold State.hostEvents at h
    split at h
    · next u hu => exact (preserves_hostEvent hu).trans (ih h)
    · cases h

theorem preserves_hostTurn {s t : State} (h : s.hostTurn = .ok t) : PreservesInv s t := by
  unfold State.hostTurn at h
  split at h
  · cases h; exact .refl s
  · next now later _ =>
    refine .trans (t := { s with schedule := later }) (fun inv => ⟨{ inv with }, rfl⟩) ?_
    exact (preserves_forgetEdges _).trans (preserves_hostEvents h)

theorem preserves_step {s t : State} (h : step s = .next t) : PreservesInv s t := by
  rcases step_cases s with ⟨_, k⟩ | ⟨_, _, k⟩ | ⟨_, _, ⟨r, _, k⟩ | ⟨u, hu, k⟩⟩ <;> rw [k] at h
  · cases h
  · cases h
  · cases h
  · exact (preserves_hostTurn hu).trans ((preserves_sample u).trans (preserves_hartTurn h))

/-- Settles O57: the host's turn, the sampling and the hart's turn each keep the invariant. -/
theorem stepKeepsInv : Obligations.StepKeepsInv := fun _ _ inv h => preserves_step h inv

/-- Settles O58, under every configuration (`resetWith_inv`). -/
theorem resetInv : Obligations.ResetInv := resetWith_inv

end Sys2Proof.Machine


/-! SUPPORT. The rules of the PMP registers: what a write of PMPCFGk and of PMPADDRi leaves (`PmpWriteRules`). -/

namespace Sys2Proof.Machine

/-- Entry by entry, a write of PMPCFGk: the four bytes of the word go to entries `4k` to `4k + 3`, each by its own rule. -/
theorem getElem_writePmpcfg (s : State) (k : Fin 4) (v : Word) (i : Fin 16) :
    (s.writePmpcfg k v).pmp.cfg[i.val] =
      if i.val / 4 = k.val ∧ i.val < s.cfg.pmpEntries.toNat ∧ pmpLocked s.pmp.cfg[i.val] = false then
        v.extractLsb' (8 * (i.val % 4)) 8 &&& 0x9F
      else s.pmp.cfg[i.val] := by
  obtain ⟨i, hi⟩ := i
  by_cases hk : i / 4 = k.val
  · have place : i = 4 * k.val ∨ i = 4 * k.val + 1 ∨ i = 4 * k.val + 2 ∨ i = 4 * k.val + 3 := by omega
    rcases place with rfl | rfl | rfl | rfl <;>
      simp [State.writePmpcfg, getElem_writePmpByte, hk]
  · have ne : ∀ c < 4, i ≠ 4 * k.val + c := by omega
    have ne0 := ne 0 (by omega)
    simp [State.writePmpcfg, getElem_writePmpByte, hk, ne 1, ne 2, ne 3, show i ≠ 4 * k.val from ne0]

theorem locksBelow_eq_true_iff (s : State) (i : Fin 16) : s.locksBelow i = true ↔
    ∃ j : Fin 16, j.val = i.val + 1 ∧ s.pmp.cfg[j.val].getLsbD 7 = true ∧ s.pmp.cfg[j.val].extractLsb' 3 2 = 1#2 := by
  unfold State.locksBelow
  split
  · next h =>
    constructor
    · intro k
      exact ⟨⟨i.val + 1, h⟩, rfl, by simpa [pmpLocked, pmpMode] using k⟩
    · rintro ⟨⟨j, hj⟩, rfl, k⟩
      simpa [pmpLocked, pmpMode] using k
  · next h =>
    refine iff_of_false Bool.false_ne_true ?_
    rintro ⟨j, e, _⟩
    omega

/-- A write of PMPADDRi that nothing locks is stored. -/
theorem writePmpaddr_stored {s : State} {i : Fin 16} (v : Word) (present : i.val < s.cfg.pmpEntries.toNat)
    (unlocked : pmpLocked s.pmp.cfg[i.val] = false) (below : s.locksBelow i = false) :
    s.writePmpaddr i v = { s with pmp := { s.pmp with addr := s.pmp.addr.set i.val v } } :=
  if_pos ⟨present, unlocked, below⟩

/-- A write of PMPADDRi that its entry's absence or a lock stops changes nothing. -/
theorem writePmpaddr_ignored {s : State} {i : Fin 16} (v : Word)
    (h : s.cfg.pmpEntries.toNat ≤ i.val ∨ pmpLocked s.pmp.cfg[i.val] = true ∨ s.locksBelow i = true) :
    s.writePmpaddr i v = s := by
  refine if_neg ?_
  rintro ⟨present, unlocked, below⟩
  rcases h with h | h | h
  · omega
  · rw [unlocked] at h; cases h
  · rw [below] at h; cases h

/-- Settles O44, from the rules of the two kinds of PMP register. -/
theorem pmpWriteRules : Obligations.PmpWriteRules := by
  intro s v
  refine ⟨fun k i => getElem_writePmpcfg s k v i, fun _ => rfl, ?stored, ?ignored, ?noEntries⟩
  case stored =>
    intro i present unlocked next
    have below : s.locksBelow i = false := by
      rw [← Bool.not_eq_true, locksBelow_eq_true_iff]
      rintro ⟨j, e, locked⟩
      exact next j e locked
    have e : s.csrWrite (.pmpaddr i) v = _ := writePmpaddr_stored v present unlocked below
    exact ⟨e, by rw [e]; simp [State.csrRead, present]⟩
  case ignored =>
    intro i h
    rw [← locksBelow_eq_true_iff] at h
    exact writePmpaddr_ignored v h
  case noEntries =>
    intro h p kind a
    simp [State.pmpAllows, h]

end Sys2Proof.Machine


/-! SUPPORT. The CSR instructions: the number of each register, which instruction makes which access, and the answers of an
access that raises, is refused or swaps (`CsrUserModeIllegal`, `CsrIllegalAccesses`, `ScratchSwapResults`). -/

namespace Sys2Proof.Machine

/-! ### Numbers -/

/-- The number of a control register: the table of 10 R33. -/
def Csr.number : Csr → BitVec 12
  | .mvendorid => 0xF11
  | .marchid => 0xF12
  | .mimpid => 0xF13
  | .mhartid => 0xF14
  | .mstatus => 0x300
  | .misa => 0x301
  | .mie => 0x304
  | .mtvec => 0x305
  | .mcounteren => 0x306
  | .mtvt => 0x307
  | .mscratch => 0x340
  | .mepc => 0x341
  | .mcause => 0x342
  | .mtval => 0x343
  | .mip => 0x344
  | .mnxti => 0x345
  | .mintstatus => 0x346
  | .mscratchcsw => 0x348
  | .mscratchcswl => 0x349
  | .mclicbase => 0x350
  | .pmpcfg k => 0x3A0 + BitVec.ofNat 12 k.val
  | .pmpaddr i => 0x3B0 + BitVec.ofNat 12 i.val
  | .mcycle => 0xB00
  | .minstret => 0xB02
  | .mcycleh => 0xB80
  | .minstreth => 0xB82
  | .mxstatus => 0x7C0
  | .mhcr => 0x7C1
  | .mraddr => 0x7E0
  | .mexstatus => 0x7E1
  | .mnmicause => 0x7E2
  | .mnmipc => 0x7E3
  | .mcpuid => 0xFC0

/-- A number is its high bits followed by its low bits, here of PMPCFGk and PMPADDRi. -/
theorem number_of_fields {hi lo : Nat} {n : BitVec 12} {a : BitVec hi} (h : n.extractLsb' lo hi = a)
    (width : hi + lo = 12) : n = BitVec.ofNat 12 (a.toNat * 2 ^ lo) + BitVec.ofNat 12 (n.extractLsb' 0 lo).toFin.val := by
  have small : n.toNat / 2 ^ lo < 2 ^ hi := by
    rw [Nat.div_lt_iff_lt_mul (by positivity), ← Nat.pow_add, width]
    exact n.isLt
  have high : a.toNat = n.toNat / 2 ^ lo := by rw [← h, extract_toNat, Nat.mod_eq_of_lt small]
  rw [← BitVec.ofNat_add, BitVec.val_toFin, extract_toNat, pow_zero, Nat.div_one, high, Nat.div_add_mod',
    BitVec.ofNat_toNat, BitVec.setWidth_eq]

/-- A row of a table of alternatives is its first, or one of the others. -/
theorem row_of_ite {α : Type} {p : Prop} [Decidable p] {a r : α} {others : Option α}
    (h : (if p then some a else others) = some r) : p ∧ a = r ∨ others = some r := by
  by_cases hp : p
  · rw [if_pos hp] at h; cases h; exact .inl ⟨hp, rfl⟩
  · rw [if_neg hp] at h; exact .inr h

/-- The number that names a register is that register's. -/
theorem number_of_csr? {n : BitVec 12} {r : Csr} (h : csr? n = some r) : n = r.number := by
  unfold csr? at h
  rcases row_of_ite h with ⟨hn, rfl⟩ | h
  · exact number_of_fields hn rfl
  rcases row_of_ite h with ⟨hn, rfl⟩ | h
  · exact number_of_fields hn rfl
  repeat
    rcases row_of_ite h with ⟨hn, rfl⟩ | h
    · exact hn
  cases h

theorem csr?_number (r : Csr) : csr? r.number = some r := by
  cases r
  case pmpcfg k => revert k; decide
  case pmpaddr i => revert i; decide
  all_goals decide

theorem number_mem_csrNumbers (r : Csr) : r.number ∈ csrNumbers := by
  cases r
  case pmpcfg k => revert k; decide
  case pmpaddr i => revert i; decide
  all_goals decide

/-- The numbers the model gives a register are those of the table. -/
theorem csr?_isSome_iff (n : BitVec 12) : (csr? n).isSome = true ↔ n ∈ csrNumbers := by
  constructor
  · intro h
    obtain ⟨r, hr⟩ := Option.isSome_iff_exists.1 h
    rw [number_of_csr? hr]
    exact number_mem_csrNumbers r
  · have all : csrNumbers.all (fun n => (csr? n).isSome) = true := by decide
    exact List.all_eq_true.1 all n

/-! ### The access an instruction makes -/

/-- The six CSR instructions. -/
theorem csrNumber_cases {i : Instr} {n : BitVec 12} (h : csrNumber i = some n) :
    (∃ rd rs1, i = .csrrw rd n rs1) ∨ (∃ rd rs1, i = .csrrs rd n rs1) ∨ (∃ rd rs1, i = .csrrc rd n rs1) ∨
    (∃ rd imm, i = .csrrwi rd n imm) ∨ (∃ rd imm, i = .csrrsi rd n imm) ∨ (∃ rd imm, i = .csrrci rd n imm) := by
  cases i <;> cases h
  case csrrw rd rs1 => exact .inl ⟨rd, rs1, rfl⟩
  case csrrs rd rs1 => exact .inr (.inl ⟨rd, rs1, rfl⟩)
  case csrrc rd rs1 => exact .inr (.inr (.inl ⟨rd, rs1, rfl⟩))
  case csrrwi rd imm => exact .inr (.inr (.inr (.inl ⟨rd, imm, rfl⟩)))
  case csrrsi rd imm => exact .inr (.inr (.inr (.inr (.inl ⟨rd, imm, rfl⟩))))
  case csrrci rd imm => exact .inr (.inr (.inr (.inr (.inr ⟨rd, imm, rfl⟩))))

theorem regBits_eq_zero_iff (r : Reg) : (regBits r == 0) = (r == 0) := by
  revert r; decide

/-- A CSR instruction is an access of the register its number names, and performs a write just where 43 R301 says. -/
theorem exec_csr {i : Instr} {n : BitVec 12} (h : csrNumber i = some n) (s : State) :
    ∃ rd op imm f v, exec i s = csrAccess i rd n op imm f v s ∧ csrPerformsWrite s.cfg op f = csrWriteForm s.cfg i := by
  rcases csrNumber_cases h with ⟨rd, rs1, rfl⟩ | ⟨rd, rs1, rfl⟩ | ⟨rd, rs1, rfl⟩ | ⟨rd, imm, rfl⟩ | ⟨rd, imm, rfl⟩ |
    ⟨rd, imm, rfl⟩
  · refine ⟨rd, .write, false, regBits rs1, s.reg rs1, rfl, ?_⟩
    simp only [csrPerformsWrite, csrWriteForm, regBits_eq_zero_iff]
  · refine ⟨rd, .set, false, regBits rs1, s.reg rs1, rfl, ?_⟩
    simp only [csrPerformsWrite, csrWriteForm, bne, regBits_eq_zero_iff]
  · refine ⟨rd, .clear, false, regBits rs1, s.reg rs1, rfl, ?_⟩
    simp only [csrPerformsWrite, csrWriteForm, bne, regBits_eq_zero_iff]
  · exact ⟨rd, .write, true, imm, zext5 imm, rfl, rfl⟩
  · exact ⟨rd, .set, true, imm, zext5 imm, rfl, rfl⟩
  · exact ⟨rd, .clear, true, imm, zext5 imm, rfl, rfl⟩

/-! ### The answers of an access -/

section
variable {i : Instr} {rd : Reg} {n : BitVec 12} {op : CsrOp} {imm : Bool} {f : BitVec 5} {v : Word} {s : State}

theorem csrAccess_unnamed (h : csr? n = none) : csrAccess i rd n op imm f v s = raiseIllegal s i := by
  simp [csrAccess, h]

theorem csrAccess_writeTraps {r : Csr} (h : csr? n = some r) (traps : r.writeTraps s.cfg = true)
    (performs : csrPerformsWrite s.cfg op f = true) : csrAccess i rd n op imm f v s = raiseIllegal s i := by
  cases r <;> simp [Csr.writeTraps] at traps <;> simp [csrAccess, h, performs, traps, Csr.writeTraps]

theorem csrAccess_mnxti (mode : s.priv = .machine) (h : csr? n = some .mnxti) : csrAccess i rd n op imm f v s =
    if imm && op != .write then .next (s.mnxtiAccess rd op v) else .refused .csrForm := by
  simp [csrAccess, h, mode]

theorem csrAccess_mscratchcsw (mode : s.priv = .machine) (h : csr? n = some .mscratchcsw) :
    csrAccess i rd n op imm f v s =
      if swapForm s.cfg rd op imm then .next (s.scratchSwap (s.csr.status.mpp != .machine) rd v)
      else .refused .csrForm := by
  simp [csrAccess, h, mode]

theorem csrAccess_mscratchcswl (mode : s.priv = .machine) (h : csr? n = some .mscratchcswl) :
    csrAccess i rd n op imm f v s =
      if swapForm s.cfg rd op imm then .next (s.scratchSwap ((s.csr.cause.mpil == 0) != (s.csr.mil == 0)) rd v)
      else .refused .csrForm := by
  simp [csrAccess, h, mode]

end

/-! ### Illegal accesses -/

theorem selfInflictedCode_code (e : Exc) : selfInflictedCode e.code = e.selfInflicted := by
  cases e <;> rfl

/-- Raising an exception, in the words of `TrapOutcome`. -/
theorem trapEntry_outcome (s : State) (e : Exc) : TrapOutcome s (s.trapEntry e) e.code e.info := by
  have locks : s.exceptionLocks e = true ↔ s.inNmi = true ∨ s.csr.ex.exptVld = true ∧ selfInflictedCode e.code = false := by
    simp [State.exceptionLocks, selfInflictedCode_code]
  constructor <;> rw [← locks]
  · intro h
    rw [s.trapEntry_locked e h]
    rfl
  · intro h
    rw [s.trapEntry_taken e (by simpa using h), selfInflictedCode_code]
    exact enterException_taken s e

theorem raises_of_raiseIllegal {s : State} {i : Instr} (h : exec i s = raiseIllegal s i) :
    Raises i s 2 (encode i).toWord :=
  ⟨_, h, trapEntry_outcome s (.illegal (encode i).toWord)⟩

/-- Settles O38: outside machine mode every access raises IllegalInstruction (`csrAccess_user`). -/
theorem csrUserModeIllegal : Obligations.CsrUserModeIllegal := by
  intro s i n h user
  obtain ⟨rd, op, imm, f, v, access, _⟩ := exec_csr h s
  exact raises_of_raiseIllegal (access.trans (csrAccess_user user))

/-- Settles O39: a number outside the table names no register, and the other numbers name registers whose writes trap. -/
theorem csrIllegalAccesses : Obligations.CsrIllegalAccesses := by
  refine ⟨csr?_isSome_iff, fun s i n number _ illegal => raises_of_raiseIllegal ?_⟩
  obtain ⟨rd, op, imm, f, v, access, performs⟩ := exec_csr number s
  rw [access]
  rcases illegal with unnamed | ⟨writes, named⟩
  · refine csrAccess_unnamed ?_
    rwa [← csr?_isSome_iff, Bool.not_eq_true, Option.isSome_eq_false_iff, Option.isNone_iff_eq_none] at unnamed
  · have traps : ∃ r : Csr, n = r.number ∧ r.writeTraps s.cfg = true := by
      rcases named with rfl | rfl | rfl | rfl | ⟨rfl, configured⟩
      · exact ⟨.mvendorid, rfl, rfl⟩
      · exact ⟨.marchid, rfl, rfl⟩
      · exact ⟨.mimpid, rfl, rfl⟩
      · exact ⟨.mhartid, rfl, rfl⟩
      · exact ⟨.mcpuid, rfl, configured⟩
    obtain ⟨r, rfl, traps⟩ := traps
    exact csrAccess_writeTraps (csr?_number r) traps (performs.trans writes)

/-! ### The conditional swaps -/

/-- Writing a register changes the register file only. -/
theorem setReg_eq (s : State) (r : Reg) (v : Word) : s.setReg r v = { s with regs := (s.setReg r v).regs } := by
  unfold State.setReg; split <;> rfl

theorem swapForm_iff (c : Config) (rd : Reg) (op : CsrOp) (imm : Bool) :
    swapForm c rd op imm = true ↔ imm = false ∧ op = .write ∧ (rd ≠ 0 ∨ c.scratchSwapWithoutRd = true) := by
  simp [swapForm, and_assoc]

/-- What CSRRW on MSCRATCHCSW or MSCRATCHCSWL leaves. -/
structure SwapResult (s t : State) (rd : Reg) (swap : Prop) (v : Word) : Prop where
  rest : t = { s with
    regs := t.regs
    pc := s.pc + 4
    minstret := s.minstret + 1
    csr := { s.csr with mscratch := t.csr.mscratch } }
  swaps : swap → (rd ≠ 0 → t.reg rd = s.csr.mscratch) ∧ t.csr.mscratch = v
  keeps : ¬ swap → (rd ≠ 0 → t.reg rd = v) ∧ t.csr.mscratch = s.csr.mscratch
  zero : t.reg 0 = 0
  others : ∀ r, r ≠ rd → t.reg r = s.reg r

theorem scratchSwap_result (s : State) (b : Bool) (rd : Reg) (v : Word) :
    SwapResult s (s.scratchSwap b rd v) rd (b = true) v := by
  rw [scratchSwap_changes]
  constructor
  case rest => rw [setReg_eq]; rfl
  case swaps => rintro rfl; exact ⟨fun h => State.setReg_reg_same _ rd _ h, by simp⟩
  case keeps =>
    intro h
    rw [Bool.not_eq_true] at h
    subst h
    exact ⟨fun h => State.setReg_reg_same _ rd _ h, by simp⟩
  case zero => simp
  case others => intro r h; exact State.setReg_reg_other _ _ h

/-- CSRRW with a destination, or with any where the configuration says so, on the two numbers. -/
theorem exec_csrrw_swap {s : State} {rd rs1 : Reg} {n : BitVec 12} {swap : Prop} (mode : s.priv = .machine)
    (form : rd ≠ 0 ∨ s.cfg.scratchSwapWithoutRd = true)
    (h : n = 0x348 ∧ (swap ↔ s.csr.status.mpp ≠ .machine) ∨ n = 0x349 ∧ (swap ↔ ¬ (s.csr.cause.mpil = 0 ↔ s.csr.mil = 0))) :
    ∃ b : Bool, (b = true ↔ swap) ∧ exec (.csrrw rd n rs1) s = .next (s.scratchSwap b rd (s.reg rs1)) := by
  have ok : swapForm s.cfg rd .write false = true := (swapForm_iff ..).2 ⟨rfl, rfl, form⟩
  rcases h with ⟨rfl, h⟩ | ⟨rfl, h⟩
  · refine ⟨_, ?_, (csrAccess_mscratchcsw (f := regBits rs1) mode (csr?_number .mscratchcsw)).trans (if_pos ok)⟩
    simp [h]
  · refine ⟨_, ?_, (csrAccess_mscratchcswl (f := regBits rs1) mode (csr?_number .mscratchcswl)).trans (if_pos ok)⟩
    rw [h, bne_iff_ne, ne_eq, Bool.eq_iff_iff, beq_iff_eq, beq_iff_eq]

/-- Any other form on the two numbers is refused. -/
theorem exec_swap_refused {s : State} {i : Instr} {n : BitVec 12} (mode : s.priv = .machine) (h : csrNumber i = some n)
    (number : n = 0x348 ∨ n = 0x349)
    (form : ∀ rd m rs1, i = .csrrw rd m rs1 → rd = 0 ∧ s.cfg.scratchSwapWithoutRd = false) :
    exec i s = .refused .csrForm := by
  have refused : ∀ rd op imm f v, swapForm s.cfg rd op imm = false →
      csrAccess i rd n op imm f v s = .refused .csrForm := by
    intro rd op imm f v bad
    rcases number with rfl | rfl
    · rw [csrAccess_mscratchcsw (n := 0x348) mode (csr?_number .mscratchcsw), bad]; rfl
    · rw [csrAccess_mscratchcswl (n := 0x349) mode (csr?_number .mscratchcswl), bad]; rfl
  rcases csrNumber_cases h with ⟨rd, rs1, rfl⟩ | ⟨rd, rs1, rfl⟩ | ⟨rd, rs1, rfl⟩ | ⟨rd, imm, rfl⟩ | ⟨rd, imm, rfl⟩ |
    ⟨rd, imm, rfl⟩
  · obtain ⟨rfl, off⟩ := form rd n rs1 rfl
    exact refused 0 .write false _ _ (by simp [swapForm, off])
  all_goals exact refused rd _ _ _ _ (by simp [swapForm])

/-- Every form on MNXTI but CSRRSI and CSRRCI is refused. -/
theorem exec_mnxti_refused {s : State} {i : Instr} (mode : s.priv = .machine) (h : csrNumber i = some 0x345)
    (form : ∀ rd m imm, i ≠ .csrrsi rd m imm ∧ i ≠ .csrrci rd m imm) : exec i s = .refused .csrForm := by
  have refused : ∀ rd op imm f v, (imm && op != .write) = false →
      csrAccess i rd 0x345 op imm f v s = .refused .csrForm := by
    intro rd op imm f v bad
    rw [csrAccess_mnxti (n := 0x345) mode (csr?_number .mnxti), bad]; rfl
  rcases csrNumber_cases h with ⟨rd, rs1, rfl⟩ | ⟨rd, rs1, rfl⟩ | ⟨rd, rs1, rfl⟩ | ⟨rd, imm, rfl⟩ | ⟨rd, imm, rfl⟩ |
    ⟨rd, imm, rfl⟩
  · exact refused rd .write false (regBits rs1) _ rfl
  · exact refused rd .set false (regBits rs1) _ rfl
  · exact refused rd .clear false (regBits rs1) _ rfl
  · exact refused rd .write true imm _ rfl
  · exact absurd rfl (form rd _ imm).1
  · exact absurd rfl (form rd _ imm).2

/-- Settles O42, from what the one form that swaps leaves and the refusal of every other form. -/
theorem scratchSwapResults : Obligations.ScratchSwapResults := by
  intro s mode
  constructor
  · intro rd rs1 n swap form h
    obtain ⟨b, hb, e⟩ := exec_csrrw_swap (rs1 := rs1) mode form h
    obtain ⟨rest, swaps, keeps, zero, others⟩ := scratchSwap_result s b rd (s.reg rs1)
    rw [hb] at swaps keeps
    exact ⟨_, e, rest, swaps, keeps, zero, others⟩
  · rintro i n h (⟨number, form⟩ | ⟨rfl, form⟩)
    · exact exec_swap_refused mode h number form
    · exact exec_mnxti_refused mode h form

end Sys2Proof.Machine


/-! SUPPORT. Words made of fields: what each field of such a word reads and which bits it leaves 0, and the whole registers
as such words, for MCAUSE and, under the reference layout, for the registers whose figures are lost. -/

namespace Sys2Proof.Machine

/-! ### One field -/

theorem getLsbD_placeField {w : Nat} (v : BitVec w) (p i : Nat) :
    (placeField v p).getLsbD i = (decide (i < 32) && !decide (i < p) && v.getLsbD (i - p)) := by
  rw [placeField, BitVec.getLsbD_shiftLeft, BitVec.getLsbD_setWidth]
  by_cases h : i < 32
  · simp [h, show i - p < 32 by omega]
  · simp [h]

/-- A field reads what was placed. -/
@[simp] theorem extract_placeField_same {w : Nat} (v : BitVec w) (p : Nat) (fits : p + w ≤ 32) :
    (placeField v p).extractLsb' p w = v := by
  ext i hi
  rw [BitVec.getElem_extractLsb', getLsbD_placeField, BitVec.getElem_eq_testBit_toNat, BitVec.testBit_toNat]
  simp
  omega

/-- A field reads 0 where another one was placed. -/
@[simp] theorem extract_placeField_other {w : Nat} (v : BitVec w) (p s len : Nat) (apart : s + len ≤ p ∨ p + w ≤ s) :
    (placeField v p).extractLsb' s len = 0#len := by
  ext i hi
  rw [BitVec.getElem_extractLsb', getLsbD_placeField, BitVec.getElem_zero]
  rcases apart with h | h
  · simp [show s + i < p by omega]
  · rw [BitVec.getLsbD_of_ge v _ (by omega), Bool.and_false]

@[simp] theorem getElem_placeField_same (b : Bool) (p : Nat) (fits : p < 32) : (placeField (boolBit b) p)[p] = b := by
  rw [← BitVec.getLsbD_eq_getElem]
  rw [getLsbD_placeField]
  simp [fits, boolBit]

@[simp] theorem getElem_placeField_other {w : Nat} (v : BitVec w) (p i : Nat) (hi : i < 32) (apart : i < p ∨ p + w ≤ i) :
    (placeField v p)[i] = false := by
  rw [← BitVec.getLsbD_eq_getElem, getLsbD_placeField]
  rcases apart with h | h
  · simp [h]
  · rw [BitVec.getLsbD_of_ge v _ (by omega), Bool.and_false]

/-- A field has no bit outside its place. -/
theorem placeField_and_eq_zero {w : Nat} (v : BitVec w) {p : Nat} {m : Word}
    (outside : placeField (BitVec.allOnes w) p &&& m = 0#32) : placeField v p &&& m = 0#32 := by
  ext i hi
  have bit := congrArg (fun x : Word => x.getLsbD i) outside
  simp only [BitVec.getLsbD_and, getLsbD_placeField, BitVec.getLsbD_allOnes, BitVec.getLsbD_zero] at bit
  rw [← BitVec.getLsbD_eq_getElem, ← BitVec.getLsbD_eq_getElem, BitVec.getLsbD_and, getLsbD_placeField, BitVec.getLsbD_zero]
  by_cases width : i - p < w
  · rw [decide_eq_true width, Bool.and_true] at bit
    rw [Bool.and_right_comm, bit, Bool.false_and]
  · rw [BitVec.getLsbD_of_ge v (i - p) (by omega), Bool.and_false, Bool.false_and]

theorem placeField_and_eq_self {w : Nat} (v : BitVec w) {p : Nat} {m : Word}
    (inside : placeField (BitVec.allOnes w) p &&& ~~~ m = 0#32) : placeField v p &&& m = placeField v p := by
  have parts : placeField v p &&& (m ||| ~~~ m) = placeField v p := by rw [BitVec.or_not_self, BitVec.and_allOnes]
  rwa [BitVec.and_or_distrib_left, placeField_and_eq_zero v inside, BitVec.or_zero] at parts

/-- A field of a value, put back at its place, is the value cut to the place. -/
theorem placeField_extract {w : Nat} (v : Word) (p : Nat) :
    placeField (v.extractLsb' p w) p = v &&& placeField (BitVec.allOnes w) p := by
  ext i hi
  rw [← BitVec.getLsbD_eq_getElem, ← BitVec.getLsbD_eq_getElem, BitVec.getLsbD_and, getLsbD_placeField,
    getLsbD_placeField, BitVec.getLsbD_extractLsb', BitVec.getLsbD_allOnes]
  by_cases below : i < p
  · simp [below]
  · simp [below, hi, show p + (i - p) = i by omega, Bool.and_comm]

theorem boolBit_getLsbD (v : Word) (p : Nat) : boolBit (v.getLsbD p) = v.extractLsb' p 1 := by
  ext i hi
  obtain rfl : i = 0 := by omega
  simp [boolBit]

theorem placeField_bit (v : Word) (p : Nat) :
    placeField (boolBit (v.getLsbD p)) p = v &&& placeField (BitVec.allOnes 1) p := by
  rw [boolBit_getLsbD, placeField_extract]

/-! ### Appended fields -/

theorem placeField_append {n m : Nat} (a : BitVec n) (b : BitVec m) (p : Nat) :
    placeField (a ++ b) p = placeField a (p + m) ||| placeField b p := by
  ext i hi
  rw [← BitVec.getLsbD_eq_getElem, ← BitVec.getLsbD_eq_getElem, BitVec.getLsbD_or, getLsbD_placeField,
    getLsbD_placeField, getLsbD_placeField, BitVec.getLsbD_append]
  by_cases below : i < p
  · simp [below, show i < p + m by omega]
  · by_cases low : i - p < m
    · simp [below, low, show i < p + m by omega]
    · rw [BitVec.getLsbD_of_ge b (i - p) (by omega)]
      simp [below, low, show ¬ i < p + m by omega, show i - p - m = i - (p + m) by omega]

theorem placeField_zero {w : Nat} (p : Nat) : placeField 0#w p = 0#32 := by
  simp [placeField]

theorem placeField_word (v : Word) : placeField v 0 = v := by
  simp [placeField]

theorem boolWord_eq_field (b : Bool) : boolWord b = placeField (boolBit b) 0 := by
  cases b <;> decide

theorem zext5_eq_field (imm : BitVec 5) : zext5 imm = placeField imm 0 := by
  simp [zext5, placeField]

/-- MCAUSE as its fields (10 R55). -/
theorem mcauseWord_eq_fields (s : State) : s.mcauseWord =
    placeField (boolBit s.csr.cause.interrupt) 31 ||| placeField (boolBit s.csr.cause.minhv) 30 |||
      placeField s.csr.status.mpp.bits 28 ||| placeField (boolBit s.csr.status.mpie) 27 |||
      placeField s.csr.cause.mpil 16 ||| placeField s.csr.cause.code 0 := by
  rw [← placeField_word s.mcauseWord, State.mcauseWord]
  simp only [placeField_append, placeField_zero, BitVec.or_zero]

/-! ### The registers whose figures are lost, under the reference layout -/

section
variable {s : State} (h : s.cfg.layout = .reference)
include h

theorem mstatusWord_reference : s.mstatusWord =
    placeField (boolBit s.csr.status.mie) 3 ||| placeField (boolBit s.csr.status.mpie) 7 |||
      placeField s.csr.status.mpp.bits 11 ||| placeField (boolBit s.csr.status.mprv) 17 := by
  rw [State.mstatusWord, h]; rfl

theorem mcounterenWord_reference : s.mcounterenWord =
    placeField (boolBit s.csr.counterCy) 0 ||| placeField (boolBit s.csr.counterTm) 1 |||
      placeField (boolBit s.csr.counterIr) 2 := by
  rw [State.mcounterenWord, h]; rfl

theorem mxstatusWord_reference : s.mxstatusWord =
    placeField s.priv.bits 30 ||| placeField (boolBit s.csr.theadisaee) 22 := by
  rw [State.mxstatusWord, h]; rfl

theorem mexstatusWord_reference (lpmd : BitVec 2) : s.mexstatusWord lpmd =
    placeField s.csr.ex.softRst 0 ||| placeField lpmd 2 ||| placeField (boolBit s.csr.ex.wfe) 4 |||
      placeField (boolBit s.csr.ex.exptVld) 5 ||| placeField (boolBit s.csr.ex.lockup) 6 := by
  rw [State.mexstatusWord, h]; rfl

theorem mnmicauseWord_reference : s.mnmicauseWord =
    placeField (boolBit s.csr.nmi.intr) 31 ||| placeField s.csr.nmi.mpp 28 |||
      placeField (boolBit s.csr.nmi.mpie) 27 ||| placeField s.csr.nmi.vector 0 := by
  rw [State.mnmicauseWord, h]; rfl

end

end Sys2Proof.Machine


/-! SUPPORT. What the control registers read (`CsrReadValues`), a lemma for each kind of register. -/

namespace Sys2Proof.Machine

/-- MTVEC reads its base with mode 3; bits 5:2 are 0 unless they are open. -/
theorem csrRead_mtvec (s : State) :
    (s.csrRead .mtvec).1.extractLsb' 6 26 = s.csr.mtvecBase ∧ (s.csrRead .mtvec).1.extractLsb' 0 2 = 3#2 ∧
      (s.csrRead .mtvec).2 = { s with draws := (s.csrRead .mtvec).2.draws } ∧
      (s.csr.mtvecLowOpen = false → (s.csrRead .mtvec).1.extractLsb' 2 4 = 0#4 ∧ (s.csrRead .mtvec).2 = s) := by
  have base : ∀ low : BitVec 6, (s.csr.mtvecBase ++ low).extractLsb' 6 26 = s.csr.mtvecBase := fun low => by
    rw [extract_append_high _ _ _ _ (le_refl 6), extract_all]
  cases isOpen : s.csr.mtvecLowOpen
  · simp only [State.csrRead, isOpen, Bool.false_eq_true, ↓reduceIte]
    refine ⟨base 3, ?_, trivial, fun _ => ⟨?_, trivial⟩⟩
    · rw [extract_append_low _ _ _ _ (by decide)]; rfl
    · rw [extract_append_low _ _ _ _ (by decide)]; rfl
  · simp only [State.csrRead, isOpen, ↓reduceIte]
    refine ⟨?_, ?_, rfl, nofun⟩
    · rw [extract_append_high _ _ _ _ (by decide), extract_append_high _ _ _ _ (by decide), extract_all]
    · rw [extract_append_low _ _ _ _ (le_refl 2)]; rfl

/-- MEXSTATUS reads its fields, with LPMD as stored or, after a wake-up, possibly 2'b11. -/
theorem csrRead_mexstatus (s : State) :
    s.csrRead .mexstatus = (s.mexstatusWord s.csr.ex.lpmd, s) ∨
    s.csr.ex.lpmdWoken = true ∧ ∃ lpmd, (lpmd = s.csr.ex.lpmd ∨ lpmd = 3#2) ∧
      s.csrRead .mexstatus = (s.mexstatusWord lpmd, s.drawn) := by
  simp only [State.csrRead]
  split
  · next woken => exact .inr ⟨woken, _, by split <;> simp, rfl⟩
  · exact .inl rfl

/-- Byte `i % 4` of PMPCFG is the configuration byte of entry `i`. -/
theorem pmpcfgWord_byte (s : State) (k : Fin 4) (i : Fin 16) (hk : i.val / 4 = k.val) :
    (s.pmpcfgWord k).extractLsb' (8 * (i.val % 4)) 8 = s.pmpCfgByte i := by
  obtain ⟨i, hi⟩ := i
  have place : i = 4 * k.val ∨ i = 4 * k.val + 1 ∨ i = 4 * k.val + 2 ∨ i = 4 * k.val + 3 := by
    have : i / 4 = k.val := hk
    omega
  rcases place with rfl | rfl | rfl | rfl <;>
    simp (disch := decide) only [State.pmpcfgWord, Nat.mul_mod_right, Nat.mul_add_mod, Nat.reduceMod, Nat.reduceMul,
      Nat.reduceSub, extract_append_low, extract_append_high, extract_all]

/-- MCPUID reads the words of its sequence in turn. -/
theorem csrRead_mcpuid (s : State) :
    (mcpuidWords s.cfg)[s.mcpuidNext % (mcpuidWords s.cfg).length]? = some (s.csrRead .mcpuid).1 := by
  have inside : s.mcpuidNext % (mcpuidWords s.cfg).length < (mcpuidWords s.cfg).length :=
    Nat.mod_lt _ (by simp [mcpuidWords])
  simp [State.csrRead, List.getElem?_eq_getElem inside]

/-- MCAUSE, field by field. -/
theorem mcauseWord_fields (s : State) :
    s.mcauseWord.getLsbD 31 = s.csr.cause.interrupt ∧ s.mcauseWord.getLsbD 30 = s.csr.cause.minhv ∧
      s.mcauseWord.extractLsb' 28 2 = s.csr.status.mpp.bits ∧ s.mcauseWord.getLsbD 27 = s.csr.status.mpie ∧
      s.mcauseWord.extractLsb' 24 3 = 0#3 ∧ s.mcauseWord.extractLsb' 16 8 = s.csr.cause.mpil ∧
      s.mcauseWord.extractLsb' 12 4 = 0#4 ∧ s.mcauseWord.extractLsb' 0 12 = s.csr.cause.code := by
  rw [mcauseWord_eq_fields]
  simp (disch := decide) [BitVec.extractLsb'_or]

section
variable {s : State} (h : s.cfg.layout = .reference)
include h

theorem mstatusWord_fields :
    s.mstatusWord &&& ~~~ 0x00021888#32 = 0 ∧ s.mstatusWord.getLsbD 3 = s.csr.status.mie ∧
      s.mstatusWord.getLsbD 7 = s.csr.status.mpie ∧ s.mstatusWord.extractLsb' 11 2 = s.csr.status.mpp.bits ∧
      s.mstatusWord.getLsbD 17 = s.csr.status.mprv := by
  rw [mstatusWord_reference h]
  simp (disch := decide) [BitVec.extractLsb'_or, BitVec.and_or_distrib_right, placeField_and_eq_zero]

theorem mcounterenWord_fields :
    s.mcounterenWord &&& ~~~ 7#32 = 0 ∧ s.mcounterenWord.getLsbD 0 = s.csr.counterCy ∧
      s.mcounterenWord.getLsbD 1 = s.csr.counterTm ∧ s.mcounterenWord.getLsbD 2 = s.csr.counterIr := by
  rw [mcounterenWord_reference h]
  simp (disch := decide) [BitVec.and_or_distrib_right, placeField_and_eq_zero]

theorem mnmicauseWord_fields :
    s.mnmicauseWord &&& ~~~ 0xB8000FFF#32 = 0 ∧ s.mnmicauseWord.getLsbD 31 = s.csr.nmi.intr ∧
      s.mnmicauseWord.extractLsb' 28 2 = s.csr.nmi.mpp ∧ s.mnmicauseWord.getLsbD 27 = s.csr.nmi.mpie ∧
      s.mnmicauseWord.extractLsb' 0 12 = s.csr.nmi.vector := by
  rw [mnmicauseWord_reference h]
  simp (disch := decide) [BitVec.extractLsb'_or, BitVec.and_or_distrib_right, placeField_and_eq_zero]

theorem mxstatusWord_fields :
    s.mxstatusWord &&& ~~~ 0xC0400000#32 = 0 ∧ s.mxstatusWord.extractLsb' 30 2 = s.priv.bits ∧
      s.mxstatusWord.getLsbD 22 = s.csr.theadisaee := by
  rw [mxstatusWord_reference h]
  simp (disch := decide) [BitVec.extractLsb'_or, BitVec.and_or_distrib_right, placeField_and_eq_zero]

theorem mexstatusWord_fields (lpmd : BitVec 2) :
    s.mexstatusWord lpmd &&& ~~~ 0x7F#32 = 0 ∧ (s.mexstatusWord lpmd).extractLsb' 0 2 = s.csr.ex.softRst ∧
      (s.mexstatusWord lpmd).extractLsb' 2 2 = lpmd ∧ (s.mexstatusWord lpmd).getLsbD 4 = s.csr.ex.wfe ∧
      (s.mexstatusWord lpmd).getLsbD 5 = s.csr.ex.exptVld ∧ (s.mexstatusWord lpmd).getLsbD 6 = s.csr.ex.lockup := by
  rw [mexstatusWord_reference h]
  simp (disch := decide) [BitVec.extractLsb'_or, BitVec.and_or_distrib_right, placeField_and_eq_zero]

end

/-- Settles O40, register by register; the words of fields through the laws of fields. -/
theorem csrReadValues : Obligations.CsrReadValues := by
  intro s
  refine ⟨⟨rfl, rfl, rfl, rfl, rfl, rfl, rfl, rfl, rfl⟩, ⟨rfl, rfl, rfl, rfl, rfl, rfl, rfl, rfl⟩, ?mtvec, ?mexstatus,
    ?pmpcfg, fun _ => rfl, ?mcycle, ?mcpuid, ?mcause, fun h => ⟨?mstatus, ?mintstatus, ?mcounteren, ?mnmicause, ?mxstatus,
    ?mexstatusFields⟩⟩
  case mtvec =>
    intro w u e
    have := csrRead_mtvec s
    rwa [← e] at this
  case mexstatus =>
    intro w u e
    rcases csrRead_mexstatus s with r | ⟨woken, lpmd, _, r⟩ <;> rw [r] at e <;> cases e
    · exact ⟨rfl, fun _ => rfl⟩
    · exact ⟨rfl, fun asleep => absurd woken (by simp [asleep])⟩
  case pmpcfg => exact fun k i hk => ⟨rfl, pmpcfgWord_byte s k i hk⟩
  case mcycle => exact ⟨Config.freeCycles s.draws, s.readCycles, rfl, rfl, rfl⟩
  case mcpuid => exact ⟨_, _, rfl, rfl, csrRead_mcpuid s, rfl, rfl⟩
  case mcause =>
    rintro w u ⟨⟩
    exact ⟨rfl, mcauseWord_fields s⟩
  case mstatus =>
    rintro w u ⟨⟩
    exact ⟨rfl, mstatusWord_fields h⟩
  case mintstatus =>
    have word : placeField s.csr.mil 24 = s.csr.mil ++ 0#24 := by
      rw [← placeField_word (s.csr.mil ++ 0#24), placeField_append, placeField_zero, BitVec.or_zero]
    rw [State.csrRead, h, ← word]
    rfl
  case mcounteren => rintro w u ⟨⟩; exact ⟨rfl, mcounterenWord_fields h⟩
  case mnmicause => rintro w u ⟨⟩; exact ⟨rfl, mnmicauseWord_fields h⟩
  case mxstatus =>
    rintro w u ⟨⟩
    exact ⟨rfl, mxstatusWord_fields h⟩
  case mexstatusFields =>
    intro w u e
    rcases csrRead_mexstatus s with r | ⟨woken, lpmd, choice, r⟩ <;> rw [r] at e <;> cases e
    · obtain ⟨zero, softRst, lpmd, rest⟩ := mexstatusWord_fields h s.csr.ex.lpmd
      exact ⟨zero, softRst, .inl lpmd, rest⟩
    · obtain ⟨zero, softRst, place, rest⟩ := mexstatusWord_fields h lpmd
      exact ⟨zero, softRst, choice.imp place.trans fun c => ⟨woken, place.trans c⟩, rest⟩

end Sys2Proof.Machine


/-! SUPPORT. What a control register reads after it is written, and what a write leaves as it was (`CsrWriteReadBack`). -/

namespace Sys2Proof.Machine

/-! ### The frame of a write -/

theorem CsrFrame.refl (s : State) (r : Csr) : CsrFrame s s r := by
  constructor <;> simp

/-- Each write keeps the fields that belong to other registers: those of its own are the exceptions to `CsrFrame.refl`. -/
theorem csrWrite_frame (s : State) (r : Csr) (v : Word) : CsrFrame s (s.csrWrite r v) r := by
  have keeps := CsrFrame.refl s r
  cases r
  case mstatus =>
    exact { keeps with rest := rfl, mieMprv := fun h => absurd rfl h, mpieMpp := fun h => absurd rfl h }
  case mcause => exact { keeps with rest := rfl, mpieMpp := fun _ h => absurd rfl h, mcause := fun h => absurd rfl h }
  case mtvec => exact { keeps with rest := rfl, mtvec := fun h => absurd rfl h }
  case mcounteren => exact { keeps with rest := rfl, mcounteren := fun h => absurd rfl h }
  case mtvt => exact { keeps with rest := rfl, mtvt := fun h => absurd rfl h }
  case mscratch => exact { keeps with rest := rfl, mscratch := fun h => absurd rfl h }
  case mepc => exact { keeps with rest := rfl, mepc := fun h => absurd rfl h }
  case mtval => exact { keeps with rest := rfl, mtval := fun h => absurd rfl h }
  case mxstatus => exact { keeps with rest := rfl, mxstatus := fun h => absurd rfl h }
  case mexstatus => exact { keeps with rest := rfl, mexstatus := fun h => absurd rfl h }
  case mnmicause => exact { keeps with rest := rfl, mnmicause := fun h => absurd rfl h }
  case mnmipc => exact { keeps with rest := rfl, mnmipc := fun h => absurd rfl h }
  case mcycle => exact { keeps with rest := rfl, mcycle := fun h _ => absurd rfl h }
  case mcycleh => exact { keeps with rest := rfl, mcycle := fun _ h => absurd rfl h }
  case minstret => exact { keeps with rest := rfl, minstret := fun h _ => absurd rfl h }
  case minstreth => exact { keeps with rest := rfl, minstret := fun _ h => absurd rfl h }
  case pmpcfg k => exact { keeps with rest := rfl, pmpcfg := fun h => absurd rfl (h k) }
  case pmpaddr i =>
    dsimp only [State.csrWrite, State.writePmpaddr]
    split
    · exact { keeps with rest := rfl, pmpaddr := fun h => absurd rfl (h i) }
    · exact keeps
  case mhcr =>
    dsimp only [State.csrWrite]
    split
    · exact { keeps with rest := rfl, mhcr := fun h => absurd rfl h }
    · exact keeps
  all_goals exact keeps

/-! ### Values read back -/

/-- The high bits of a value above `k` zeros are the value with those bits cleared. -/
theorem extract_append_zeros (v : Word) : v.extractLsb' 6 26 ++ 0#6 = v &&& 0xFFFFFFC0 := by
  rw [← placeField_word (v.extractLsb' 6 26 ++ 0#6), placeField_append, placeField_zero, BitVec.or_zero, placeField_extract]
  rfl

theorem mtvec_readBack (s : State) (v : Word) (h : v.extractLsb' 2 4 = 0#4) :
    ((s.csrWrite .mtvec v).csrRead .mtvec).1 = (v &&& 0xFFFFFFC0) ||| 3 := by
  have word : v.extractLsb' 6 26 ++ 3#6 = (v &&& 0xFFFFFFC0) ||| 3 := by
    rw [← placeField_word (v.extractLsb' 6 26 ++ 3#6), placeField_append, placeField_extract]
    rfl
  simp only [State.csrWrite, State.csrRead, h]
  exact word

theorem mhcr_readBack (s : State) (v : Word) (h : s.cfg.icacheSize ≠ .none) :
    ((s.csrWrite .mhcr v).csrRead .mhcr).1 = v &&& 1 := by
  have writable : s.icacheEnableWritable = true := by simp [State.icacheEnableWritable, h]
  simp only [State.csrWrite, State.csrRead, writable, if_true]
  rw [boolWord_eq_field, placeField_bit]
  rfl

/-! ### MPP -/

theorem legalMpp_bits {s : State} {b : BitVec 2} (h : b = 3#2 ∨ b = 0#2 ∧ s.cfg.hasUmode = true) :
    (s.legalMpp b).bits = b := by
  rcases h with rfl | ⟨rfl, h⟩
  · rfl
  · simp [State.legalMpp, h, Priv.bits]

/-! ### Whole registers -/

theorem or_right_comm (a b c : Word) : a ||| b ||| c = a ||| c ||| b := by
  rw [BitVec.or_assoc, BitVec.or_comm b, BitVec.or_assoc]

theorem writeMcause_csr (s : State) (v : Word) : (s.writeMcause v).csr = { s.csr with
    status := { s.csr.status with mpie := v.getLsbD 27, mpp := s.legalMpp (v.extractLsb' 28 2) }
    cause := {
      interrupt := v.getLsbD 31, minhv := v.getLsbD 30, mpil := v.extractLsb' 16 8, code := v.extractLsb' 0 12 } } := rfl

/-- MCAUSE after a write of `v`: the written fields, and MPP as it was legalised. -/
theorem mcauseWord_written (s : State) (v : Word) : (s.csrWrite .mcause v).mcauseWord =
    (v &&& 0xC8FF0FFF) ||| placeField (s.legalMpp (v.extractLsb' 28 2)).bits 28 := by
  have mask : (0xC8FF0FFF : Word) = placeField (BitVec.allOnes 1) 31 ||| placeField (BitVec.allOnes 1) 30 |||
      placeField (BitVec.allOnes 1) 27 ||| placeField (BitVec.allOnes 8) 16 ||| placeField (BitVec.allOnes 12) 0 := by decide
  rw [State.csrWrite, mcauseWord_eq_fields, writeMcause_csr, mask]
  simp only [placeField_bit, placeField_extract, BitVec.and_or_distrib_left]
  generalize placeField (s.legalMpp (v.extractLsb' 28 2)).bits 28 = mpp
  simp only [or_right_comm _ mpp]

section
variable {s : State} (h : s.cfg.layout = .reference) (v : Word)
include h

/-- The four fields a write of MSTATUS gives. -/
theorem writeMstatus_status : (s.writeMstatus v).csr.status =
    { mie := v.getLsbD 3, mpie := v.getLsbD 7, mpp := s.legalMpp (v.extractLsb' 11 2), mprv := v.getLsbD 17 } := by
  have mpie : s.cfg.layout.mstatusMpie = 7 := by rw [h]; rfl
  have mprv : s.cfg.layout.mstatusMprv = 17 := by rw [h]; rfl
  simp only [State.writeMstatus, mpie, mprv, State.writePrevious_csr]

/-- MSTATUS after a write of `v`: the written fields, and MPP as it was legalised. -/
theorem mstatusWord_written : (s.csrWrite .mstatus v).mstatusWord =
    (v &&& 0x00020088) ||| placeField (s.legalMpp (v.extractLsb' 11 2)).bits 11 := by
  have mask : (0x00020088 : Word) = placeField (BitVec.allOnes 1) 3 ||| placeField (BitVec.allOnes 1) 7 |||
      placeField (BitVec.allOnes 1) 17 := by decide
  rw [mstatusWord_reference (s := s.csrWrite .mstatus v) h, mask]
  simp only [State.csrWrite, writeMstatus_status h, placeField_bit, BitVec.and_or_distrib_left]
  exact or_right_comm _ _ _

theorem mcounterenWord_written : (s.csrWrite .mcounteren v).mcounterenWord = v &&& 7 := by
  have mask : (7 : Word) = placeField (BitVec.allOnes 1) 0 ||| placeField (BitVec.allOnes 1) 1 |||
      placeField (BitVec.allOnes 1) 2 := by decide
  rw [mcounterenWord_reference (s := s.csrWrite .mcounteren v) h, mask]
  simp only [State.csrWrite, h, Layout.reference, placeField_bit, BitVec.and_or_distrib_left]

theorem mnmicauseWord_written : (s.csrWrite .mnmicause v).mnmicauseWord = v &&& 0xB8000FFF := by
  have mask : (0xB8000FFF : Word) = placeField (BitVec.allOnes 1) 31 ||| placeField (BitVec.allOnes 2) 28 |||
      placeField (BitVec.allOnes 1) 27 ||| placeField (BitVec.allOnes 12) 0 := by decide
  rw [mnmicauseWord_reference (s := s.csrWrite .mnmicause v) h, mask]
  simp only [State.csrWrite, h, Layout.reference, placeField_bit, placeField_extract, BitVec.and_or_distrib_left]

/-- MXSTATUS after a write of `v`: THEADISAEE as written, PM as it read before. -/
theorem mxstatusWord_written : (s.csrWrite .mxstatus v).mxstatusWord =
    (v &&& 0x00400000) ||| (s.mxstatusWord &&& 0xC0000000) := by
  have mask : (0x00400000 : Word) = placeField (BitVec.allOnes 1) 22 := by decide
  rw [mxstatusWord_reference (s := s.csrWrite .mxstatus v) h, mxstatusWord_reference h, BitVec.and_or_distrib_right,
    placeField_and_eq_self _ (by decide), placeField_and_eq_zero _ (by decide), BitVec.or_zero, mask, BitVec.or_comm]
  simp only [State.csrWrite, placeField_bit]

end

/-- Settles O41, from the frame of a write and the written word of each register. -/
theorem csrWriteReadBack : Obligations.CsrWriteReadBack := by
  intro s v
  refine ⟨fun r => csrWrite_frame s r v, ?plain, ?high, ?low, rfl, rfl, ?even, extract_append_zeros v, mtvec_readBack s v,
    mhcr_readBack s v, ?constants, ?mcause, ?mcauseIllegal, legalMpp_illegal, fun h => ⟨?mstatus, ?mstatusIllegal,
    mcounterenWord_written h v, mxstatusWord_written h v, mnmicauseWord_written h v, ?mexstatus⟩⟩
  case plain =>
    rintro r (rfl | rfl | rfl | rfl)
    · rfl
    · rfl
    · exact (extract_append_low _ _ _ _ (by decide)).trans (extract_all v)
    · exact (extract_append_high _ _ _ _ (by decide)).trans (extract_all v)
  case high => exact (extract_append_high _ _ _ _ (by decide)).trans (extract_all _)
  case low => exact (extract_append_low _ _ _ _ (by decide)).trans (extract_all _)
  case even => rintro r (rfl | rfl) <;> rfl
  case constants => rintro r (rfl | rfl | rfl | rfl | rfl | rfl | rfl) <;> rfl
  case mcause =>
    intro legal
    have mask : (0xF8FF0FFF : Word) = 0xC8FF0FFF ||| placeField (BitVec.allOnes 2) 28 := by decide
    refine (mcauseWord_written s v).trans ?_
    rw [legalMpp_bits legal, placeField_extract, mask, BitVec.and_or_distrib_left]
  case mcauseIllegal =>
    intro illegal
    refine ⟨legalMpp_illegal illegal, ?_⟩
    show (s.csrWrite .mcause v).mcauseWord &&& 0xCFFFFFFF = _
    rw [mcauseWord_written, BitVec.and_or_distrib_right, placeField_and_eq_zero _ (by decide), BitVec.or_zero,
      BitVec.and_assoc]
    rfl
  case mstatus =>
    intro legal
    have mask : (0x00021888 : Word) = 0x00020088 ||| placeField (BitVec.allOnes 2) 11 := by decide
    refine ⟨(mstatusWord_written h v).trans ?_, ?_, ?_⟩
    · rw [legalMpp_bits legal, placeField_extract, mask, BitVec.and_or_distrib_left]
    · obtain ⟨_, _, mpp, _⟩ := mcauseWord_fields (s.csrWrite .mstatus v)
      exact mpp.trans (legalMpp_bits legal)
    · obtain ⟨_, _, _, mpie, _⟩ := mcauseWord_fields (s.csrWrite .mstatus v)
      exact mpie.trans (congrArg Status.mpie (writeMstatus_status h v))
  case mstatusIllegal =>
    intro illegal
    show (s.csrWrite .mstatus v).mstatusWord &&& 0xFFFFE7FF = _
    rw [mstatusWord_written h, BitVec.and_or_distrib_right, placeField_and_eq_zero _ (by decide), BitVec.or_zero,
      BitVec.and_assoc]
    rfl
  case mexstatus =>
    have high : (v.extractLsb' 2 2).getLsbD 1 = v.getLsbD 3 := by
      rw [BitVec.getLsbD_extractLsb']; rfl
    simp only [State.csrWrite, State.writeMexstatus, h, Layout.reference, high]

end Sys2Proof.Machine


/-! SUPPORT. CSRRSI and CSRRCI on MNXTI: the write of MSTATUS sets or clears MIE only, and the claim hands out the presented
interrupt (`NextInterruptResults`). -/

namespace Sys2Proof.Machine

/-- A write of MPP's own bits keeps it. -/
theorem legalMpp_own {s : State} (legal : s.cfg.hasUmode = false → s.csr.status.mpp = .machine) :
    s.legalMpp s.csr.status.mpp.bits = s.csr.status.mpp ∧ s.mppDraws s.csr.status.mpp.bits = false := by
  cases user : s.cfg.hasUmode
  · rw [legal user]
    exact ⟨rfl, rfl⟩
  · cases s.csr.status.mpp
    · exact ⟨rfl, rfl⟩
    · simp [State.legalMpp, State.mppDraws, Priv.bits, user]

/-- A write of MSTATUS whose MPIE, MPP and MPRV are those it holds changes MIE only. -/
theorem writeMstatus_mie {s : State} (h : s.cfg.layout = .reference)
    (legal : s.cfg.hasUmode = false → s.csr.status.mpp = .machine) {v : Word}
    (mpie : v.getLsbD 7 = s.csr.status.mpie) (mpp : v.extractLsb' 11 2 = s.csr.status.mpp.bits)
    (mprv : v.getLsbD 17 = s.csr.status.mprv) :
    s.writeMstatus v = { s with csr := { s.csr with status := { s.csr.status with mie := v.getLsbD 3 } } } := by
  obtain ⟨same, noDraw⟩ := legalMpp_own legal
  have status := writeMstatus_status h v
  rw [mpie, mpp, mprv, same] at status
  have changes : s.writeMstatus v = { s with
      draws := if s.mppDraws (v.extractLsb' 11 2) then s.draws + 1 else s.draws
      csr := { s.csr with status := (s.writeMstatus v).csr.status } } := rfl
  rw [changes, status, mpp, noDraw]
  rfl

/-- The 5-bit immediate of the form has no bit above 4, so setting its bits changes bits 4:0 only. -/
theorem or_zext5_fields (w : Word) (imm : BitVec 5) :
    (w ||| zext5 imm).getLsbD 3 = (w.getLsbD 3 || imm.getLsbD 3) ∧ (w ||| zext5 imm).getLsbD 7 = w.getLsbD 7 ∧
      (w ||| zext5 imm).extractLsb' 11 2 = w.extractLsb' 11 2 ∧ (w ||| zext5 imm).getLsbD 17 = w.getLsbD 17 := by
  rw [zext5_eq_field, BitVec.extractLsb'_or, extract_placeField_other _ _ _ _ (by decide)]
  simp [getLsbD_placeField, -BitVec.getLsbD_eq_getElem]

/-- Clearing the bits of the 5-bit immediate changes bits 4:0 only. -/
theorem and_not_zext5_fields (w : Word) (imm : BitVec 5) :
    (w &&& ~~~ zext5 imm).getLsbD 3 = (w.getLsbD 3 && !imm.getLsbD 3) ∧ (w &&& ~~~ zext5 imm).getLsbD 7 = w.getLsbD 7 ∧
      (w &&& ~~~ zext5 imm).extractLsb' 11 2 = w.extractLsb' 11 2 ∧
      (w &&& ~~~ zext5 imm).getLsbD 17 = w.getLsbD 17 := by
  rw [zext5_eq_field, BitVec.extractLsb'_and, BitVec.extractLsb'_not_of_lt (by decide),
    extract_placeField_other _ _ _ _ (by decide), BitVec.not_zero, BitVec.and_allOnes]
  simp [getLsbD_placeField, -BitVec.getLsbD_eq_getElem]

/-- The write of MSTATUS that CSRRSI and CSRRCI on MNXTI make sets or clears MIE and changes nothing else. -/
theorem writeMstatus_mnxti {s : State} (h : s.cfg.layout = .reference)
    (legal : s.cfg.hasUmode = false → s.csr.status.mpp = .machine) (imm : BitVec 5) {op : CsrOp} {mie : Bool}
    (form : op = .set ∧ mie = (s.csr.status.mie || imm.getLsbD 3) ∨
      op = .clear ∧ mie = (s.csr.status.mie && !imm.getLsbD 3)) :
    s.writeMstatus (csrNew s.cfg op true s.mstatusWord (zext5 imm)) =
      { s with csr := { s.csr with status := { s.csr.status with mie := mie } } } := by
  obtain ⟨_, mieBit, mpieBit, mppBits, mprvBit⟩ := mstatusWord_fields h
  rcases form with ⟨rfl, rfl⟩ | ⟨rfl, rfl⟩
  · obtain ⟨mie, mpie, mpp, mprv⟩ := or_zext5_fields s.mstatusWord imm
    rw [← mieBit, ← mie]
    exact writeMstatus_mie h legal (mpie.trans mpieBit) (mpp.trans mppBits) (mprv.trans mprvBit)
  · obtain ⟨mie, mpie, mpp, mprv⟩ := and_not_zext5_fields s.mstatusWord imm
    rw [← mieBit, ← mie]
    exact writeMstatus_mie h legal (mpie.trans mpieBit) (mpp.trans mppBits) (mprv.trans mprvBit)

/-! ### The claim -/

/-- The presented interrupt is handed out where it passes the three conditions of 10 R58. -/
theorem nextInterrupt_eq_some_iff (s : State) (x : ClicSource) : s.nextInterrupt = some x ↔
    s.presented = some x ∧ s.clic.mth < s.levelOf x ∧ s.csr.cause.mpil < s.levelOf x ∧ x.shv = false := by
  unfold State.nextInterrupt State.interruptRequest
  cases s.presented with
  | none => simp
  | some y =>
    by_cases above : s.clic.mth < s.levelOf y
    · simp only [above, if_true, Bool.and_eq_true, decide_eq_true_eq, Bool.not_eq_true', Option.ite_none_right_eq_some,
        Option.some.injEq]
      constructor
      · rintro ⟨⟨level, shv⟩, rfl⟩
        exact ⟨rfl, above, level, shv⟩
      · rintro ⟨rfl, _, level, shv⟩
        exact ⟨⟨level, shv⟩, rfl⟩
    · simp only [above, if_false, reduceCtorEq, Option.some.injEq, false_iff, not_and]
      rintro rfl above'
      exact absurd above' above

/-- An interrupt that is claimed: its level, its id, its pending bit if edge-triggered, and its vector table address. -/
theorem claimNext_some {s : State} {x : ClicSource} (h : s.nextInterrupt = some x) (rd : Reg) :
    s.claimNext rd = ({ s with
      csr := { s.csr with mil := s.levelOf x, cause := { s.csr.cause with code := BitVec.ofNat 12 x.id } }
      clic := { s.clic with
        sources := s.clic.sources.map fun y =>
          if y.id = x.id ∧ y.trig.getLsbD 0 = true then { y with ip := y.edge && y.held } else y } } : State).setReg rd
      ((s.csr.mtvt ++ 0#6) + BitVec.ofNat 32 (4 * x.id)) := by
  have sources : s.clic.sources.map (fun y => if y.id = x.id then y.acknowledge else y) =
      s.clic.sources.map fun y =>
        if y.id = x.id ∧ y.trig.getLsbD 0 = true then { y with ip := y.edge && y.held } else y := by
    refine List.map_congr_left fun y _ => ?_
    unfold ClicSource.acknowledge ClicSource.isEdge
    rw [ite_and]
  have address : s.vectorAddress x.id = (s.csr.mtvt ++ 0#6) + BitVec.ofNat 32 (4 * x.id) := by
    rw [State.vectorAddress, BitVec.ofNat_mul]
    rfl
  simp only [State.claimNext, h, State.setSource, sources, address]

theorem claimNext_none {s : State} (h : s.nextInterrupt = none) (rd : Reg) : s.claimNext rd = s.setReg rd 0 := by
  simp only [State.claimNext, h]

/-- CSRRSI and CSRRCI on MNXTI: MIE first, then the claim. -/
theorem exec_mnxti {s : State} {i : Instr} {rd : Reg} {imm : BitVec 5} {mie : Bool} (mode : s.priv = .machine)
    (h : s.cfg.layout = .reference) (legal : s.cfg.hasUmode = false → s.csr.status.mpp = .machine)
    (form : i = .csrrsi rd 0x345 imm ∧ mie = (s.csr.status.mie || imm.getLsbD 3) ∨
      i = .csrrci rd 0x345 imm ∧ mie = (s.csr.status.mie && !imm.getLsbD 3)) :
    exec i s = .next ((({ s with csr := { s.csr with status := { s.csr.status with mie := mie } } } : State).claimNext
      rd).advance 4) := by
  rcases form with ⟨rfl, hmie⟩ | ⟨rfl, hmie⟩
  · rw [← writeMstatus_mnxti h legal imm (.inl ⟨rfl, hmie⟩)]
    exact csrAccess_mnxti (f := imm) mode (csr?_number .mnxti)
  · rw [← writeMstatus_mnxti h legal imm (.inr ⟨rfl, hmie⟩)]
    exact csrAccess_mnxti (f := imm) mode (csr?_number .mnxti)

/-- Settles O43: the access is the write of MIE and then the claim, which hands out an interrupt or gives 0. -/
theorem nextInterruptResults : Obligations.NextInterruptResults := by
  intro s i rd imm mie mode h legal form
  refine ⟨_, exec_mnxti mode h legal form, ?_⟩
  generalize hu : ({ s with csr := { s.csr with status := { s.csr.status with mie := mie } } } : State) = u
  have same : ∀ x, u.nextInterrupt = some x ↔
      s.presented = some x ∧ s.clic.mth < s.levelOf x ∧ s.csr.cause.mpil < s.levelOf x ∧ x.shv = false := by
    subst hu
    exact nextInterrupt_eq_some_iff _
  cases claim : u.nextInterrupt with
  | some y =>
    obtain ⟨presented, mth, mpil, shv⟩ := (same y).1 claim
    rw [claimNext_some claim]
    refine ⟨by simp, fun r hr => ?_, fun x hx _ _ _ => ?_, fun no => absurd ⟨mth, mpil, shv⟩ (no y presented)⟩
    · subst hu
      exact State.setReg_reg_other _ _ hr
    · obtain rfl : y = x := Option.some.inj (presented.symm.trans hx)
      subst hu
      refine ⟨fun hrd => State.setReg_reg_same _ rd _ hrd, ?_⟩
      rw [setReg_eq]
      rfl
  | none =>
    rw [claimNext_none claim]
    refine ⟨by simp, fun r hr => ?_, fun x hx mth mpil shv => ?_, fun _ => ?_⟩
    · subst hu
      exact State.setReg_reg_other _ _ hr
    · have := (same x).2 ⟨hx, mth, mpil, shv⟩
      rw [claim] at this
      cases this
    · subst hu
      refine ⟨fun hrd => State.setReg_reg_same _ rd _ hrd, ?_⟩
      rw [setReg_eq]
      rfl

end Sys2Proof.Machine


/-! SUPPORT. The state after reset, register by register and source by source (`ResetValues`). -/

namespace Sys2Proof.Machine

/-! ### Control registers -/

theorem resetWith_pmpCfgByte (c : Config) (i : Fin 16) : (State.resetWith c).pmpCfgByte i = 0 := by
  unfold State.pmpCfgByte
  split
  · exact Vector.getElem_replicate i.isLt
  · rfl

theorem resetWith_pmpcfg (c : Config) (k : Fin 4) : ((State.resetWith c).csrRead (.pmpcfg k)).1 = 0 := by
  simp only [State.csrRead, State.pmpcfgWord, resetWith_pmpCfgByte]
  rfl

theorem resetWith_mcpuid (c : Config) : ((State.resetWith c).csrRead .mcpuid).1 = c.mcpuidFirst := by
  have first : (State.resetWith c).mcpuidNext % (mcpuidWords c).length = 0 := Nat.zero_mod _
  simp only [State.csrRead, show (State.resetWith c).cfg = c from rfl, first]
  rfl

theorem resetWith_mtvec (c : Config) : ((State.resetWith c).csrRead .mtvec).1 = 3 := by
  show 0#26 ++ 3#6 = 3#32
  decide

theorem resetWith_mtvt (c : Config) : ((State.resetWith c).csrRead .mtvt).1 = 0 := by
  show 0#26 ++ 0#6 = 0#32
  decide

theorem resetWith_mcause (c : Config) : ((State.resetWith c).csrRead .mcause).1 = 0x30000000 := by
  simp only [State.csrRead, State.mcauseWord, State.resetWith, Csrs.afterReset]
  decide

theorem resetWith_mstatusWord {c : Config} (h : c.layout = .reference) :
    (State.resetWith c).mstatusWord = 0x00001800 := by
  rw [mstatusWord_reference (s := State.resetWith c) h]
  simp only [State.resetWith, Csrs.afterReset]
  decide

theorem resetWith_mxstatusWord {c : Config} (h : c.layout = .reference) :
    (State.resetWith c).mxstatusWord = 0xC0000000 := by
  rw [mxstatusWord_reference (s := State.resetWith c) h]
  simp only [State.resetWith, Csrs.afterReset]
  decide

theorem resetWith_mexstatusWord {c : Config} (h : c.layout = .reference) :
    (State.resetWith c).mexstatusWord 0 = 0x00000010 := by
  rw [mexstatusWord_reference (s := State.resetWith c) h]
  simp only [State.resetWith, Csrs.afterReset]
  decide

/-! ### Device registers -/

theorem resetWith_devices (c : Config) :
    (State.resetWith c).tcipRead 0xE0000000 .word = some 0 ∧
      (State.resetWith c).tcipRead 0xE0004000 .word = some 0xFFFFFFFF ∧
      (State.resetWith c).tcipRead 0xE0004004 .word = some 0xFFFFFFFF ∧
      (State.resetWith c).tcipRead 0xE0800000 .word = some 1 ∧ (State.resetWith c).tcipRead 0xE0800008 .word = some 0 := by
  refine ⟨rfl, congrArg some ?mtimecmpLo, congrArg some ?mtimecmpHi, congrArg some ?cliccfg, congrArg some ?minththresh⟩
  case mtimecmpLo =>
    show (0xFFFFFFFFFFFFFFFF#64).extractLsb' 0 32 = 0xFFFFFFFF#32
    decide
  case mtimecmpHi =>
    show (0xFFFFFFFFFFFFFFFF#64).extractLsb' 32 32 = 0xFFFFFFFF#32
    decide
  case cliccfg =>
    show (0#4 ++ 1#1).setWidth 32 = 1#32
    decide
  case minththresh => exact placeField_zero _

/-! ### Interrupt sources -/

/-- The search for a listed value finds it. -/
theorem find?_beq_of_mem {l : List Nat} {a : Nat} (h : a ∈ l) : l.find? (fun b => b == a) = some a := by
  have isSome : (l.find? fun b => b == a).isSome = true := List.find?_isSome.2 ⟨a, h, beq_self_eq_true a⟩
  obtain ⟨b, found⟩ := Option.isSome_iff_exists.1 isSome
  have same : b = a := eq_of_beq (List.find?_some found :)
  rw [found, same]

/-- With the pins idle no source signals. -/
theorem resetWith_sourceSignal (c : Config) (id : Nat) : (State.resetWith c).sourceSignal id = false := by
  unfold State.sourceSignal
  split
  · rfl
  split
  · rfl
  split
  · rfl
  · exact BitVec.getLsbD_zero

theorem resetWith_source? {c : Config} {id : Nat} (h : id ∈ sourceIds c) :
    (State.resetWith c).source? id = some (ClicSource.afterReset c id) := by
  show ((sourceIds c).map (ClicSource.afterReset c)).find? (fun x => x.id == id) = _
  rw [List.find?_map]
  exact congrArg (Option.map (ClicSource.afterReset c)) (find?_beq_of_mem h)

theorem sourceIds_lt {c : Config} {id : Nat} (h : id ∈ sourceIds c) : id < 256 := by
  have few : c.numExt ≤ 240 := c.numExtPred.isLt
  simp only [sourceIds, List.mem_append, List.mem_cons, List.not_mem_nil, or_false, List.mem_map, List.mem_range] at h
  omega

/-- The word of a source after reset: CTL with its tied bits only, ATTR 0xC0, IE and IP 0. -/
theorem resetWith_sourceWord (c : Config) (id : Nat) :
    (State.resetWith c).sourceWord (ClicSource.afterReset c id) = (0xFF#8 >>> c.ctlBits.toNat) ++ 0xC0#8 ++ 0#16 := by
  have pending : (State.resetWith c).pending (ClicSource.afterReset c id) = false := by
    rw [State.pending, if_neg (by simp [ClicSource.isEdge, ClicSource.afterReset])]
    exact resetWith_sourceSignal c id
  simp only [State.sourceWord, pending]
  cases h : c.ctlBits <;> simp [ClicSource.afterReset, ClicSource.attr, h] <;> decide

/-- The address of a source names its four byte registers. -/
theorem tcipReg?_source {id : Nat} (h : id < 256) :
    tcipReg? (0xE0801000#32 + 4 * BitVec.ofNat 32 id) .word = some (.source id 0) := by
  have offset : (4 * BitVec.ofNat 32 id).toNat = 4 * id := by
    simp [BitVec.toNat_mul]
    omega
  have address : (0xE0801000#32 + 4 * BitVec.ofNat 32 id).toNat = 0xE0801000 + 4 * id := by
    rw [BitVec.toNat_add, offset, BitVec.toNat_ofNat]
    omega
  have number : ((4 * BitVec.ofNat 32 id) >>> 2).toNat = id := by
    rw [BitVec.toNat_ushiftRight, offset, Nat.shiftRight_eq_div_pow]
    omega
  have byte : ((0xE0801000#32 + 4 * BitVec.ofNat 32 id) &&& 3#32).toNat = 0 := by
    rw [BitVec.toNat_and, address]
    refine (Nat.and_two_pow_sub_one_eq_mod _ 2).trans ?_
    omega
  have inside : 0xE0801000#32 ≤ 0xE0801000#32 + 4 * BitVec.ofNat 32 id ∧
      0xE0801000#32 + 4 * BitVec.ofNat 32 id ≤ 0xE08013FF#32 := by
    rw [BitVec.le_def, BitVec.le_def, address, BitVec.toNat_ofNat, BitVec.toNat_ofNat]
    omega
  rw [tcipReg?, if_pos inside, add_sub_cancel_left, number, byte]

theorem resetWith_sourceRead {c : Config} {id : Nat} (h : id ∈ sourceIds c) :
    (State.resetWith c).tcipRead (0xE0801000#32 + 4 * BitVec.ofNat 32 id) .word =
      some ((0xFF#8 >>> c.ctlBits.toNat) ++ 0xC0#8 ++ 0#16) := by
  rw [State.tcipRead, tcipReg?_source (sourceIds_lt h), Option.map_some, ← resetWith_sourceWord c id]
  simp only [State.tcipValue, resetWith_source? h]
  exact congrArg some (BitVec.ushiftRight_zero _)

/-- Without an enabled source no interrupt is presented. -/
theorem interruptToTake_of_disabled {s : State} (h : ∀ x ∈ s.clic.sources, x.ie = false) : s.interruptToTake = none := by
  have noCandidate : s.clic.sources.filter s.isCandidate = [] :=
    List.filter_eq_nil_iff.2 fun x hx => by simp [State.isCandidate, h x hx]
  have noRequest : s.interruptRequest = none := by simp [State.interruptRequest, State.presented, noCandidate]
  simp only [State.interruptToTake, noRequest]

theorem resetWith_interruptToTake (c : Config) : (State.resetWith c).sample.interruptToTake = none := by
  refine interruptToTake_of_disabled fun x hx => ?_
  obtain ⟨y, hy, rfl⟩ := List.mem_map.1 hx
  obtain ⟨id, _, rfl⟩ := List.mem_map.1 hy
  rfl

/-- Settles O59, register by register; with the pins idle no source signals. -/
theorem resetValues : Obligations.ResetValues := by
  refine ⟨?_, fun _ _ => rfl⟩
  rintro c s rfl
  refine ⟨?registers, ?words, resetWith_devices c, fun _ => resetWith_sourceRead, resetWith_interruptToTake c, ?prev⟩
  case registers =>
    exact ⟨rfl, rfl, rfl, resetWith_mtvec c, resetWith_mtvt c, resetWith_mcause c, placeField_zero _, rfl,
      resetWith_pmpcfg c, rfl, rfl, resetWith_mcpuid c, rfl, rfl, rfl, rfl, rfl, rfl, rfl, rfl, rfl⟩
  case words => exact fun h => ⟨resetWith_mstatusWord h, resetWith_mxstatusWord h, resetWith_mexstatusWord h⟩
  case prev =>
    intro x hx
    obtain ⟨id, _, rfl⟩ := List.mem_map.1 hx
    exact (resetWith_sourceSignal c id).symm

end Sys2Proof.Machine


/-! SUPPORT. Locked PMP entries: only a write of a PMP register changes the PMP, and it keeps what a lock protects; every
part of the step is one of the two (`PmpLockedUntilReset`). -/

namespace Sys2Proof.Machine

/-! ### What a lock protects -/

/-- From `p` to `q` every locked entry is as it was, and so is the address register below it if it is in TOR mode
(20 R147). -/
structure Pmp.KeepsLocked (p q : Pmp) : Prop where
  cfg : ∀ i : Fin 16, pmpLocked p.cfg[i.val] = true → q.cfg[i.val] = p.cfg[i.val]
  addr : ∀ i : Fin 16, pmpLocked p.cfg[i.val] = true → q.addr[i.val] = p.addr[i.val]
  below : ∀ i j : Fin 16, pmpLocked p.cfg[i.val] = true → pmpMode p.cfg[i.val] = 1#2 → j.val + 1 = i.val →
    q.addr[j.val] = p.addr[j.val]

theorem Pmp.KeepsLocked.refl (p : Pmp) : p.KeepsLocked p := ⟨fun _ _ => rfl, fun _ _ => rfl, fun _ _ _ _ _ => rfl⟩

theorem Pmp.KeepsLocked.of_eq {p q : Pmp} (h : q = p) : p.KeepsLocked q := h ▸ .refl p

/-- A locked entry is still locked, in the same mode, after the first change. -/
theorem Pmp.KeepsLocked.trans {p q r : Pmp} (h : p.KeepsLocked q) (k : q.KeepsLocked r) : p.KeepsLocked r where
  cfg i locked := (k.cfg i (by rwa [h.cfg i locked])).trans (h.cfg i locked)
  addr i locked := (k.addr i (by rwa [h.cfg i locked])).trans (h.addr i locked)
  below i j locked tor next :=
    (k.below i j (by rwa [h.cfg i locked]) (by rwa [h.cfg i locked]) next).trans (h.below i j locked tor next)

/-! ### Writes of control registers -/

theorem writePmpcfg_keepsLocked (s : State) (k : Fin 4) (v : Word) : s.pmp.KeepsLocked (s.writePmpcfg k v).pmp where
  cfg i locked := by
    rw [getElem_writePmpcfg, if_neg]
    rintro ⟨_, _, unlocked⟩
    rw [locked] at unlocked
    cases unlocked
  addr _ _ := rfl
  below _ _ _ _ _ := rfl

/-- A write of PMPADDRi that is stored finds entry `i` unlocked, and entry `i + 1` not locked in TOR mode. -/
theorem writePmpaddr_keepsLocked (s : State) (i : Fin 16) (v : Word) : s.pmp.KeepsLocked (s.writePmpaddr i v).pmp := by
  by_cases stored : i.val < s.cfg.pmpEntries.toNat ∧ pmpLocked s.pmp.cfg[i.val] = false ∧ s.locksBelow i = false
  · obtain ⟨present, unlocked, free⟩ := stored
    rw [writePmpaddr_stored v present unlocked free]
    refine ⟨fun _ _ => rfl, fun j locked => ?_, fun j k locked tor next => ?_⟩
    · refine Vector.getElem_set_ne i.isLt j.isLt fun e => ?_
      simp [← e, unlocked] at locked
    · refine Vector.getElem_set_ne i.isLt k.isLt fun e => ?_
      have blocked : s.locksBelow i = true := (locksBelow_eq_true_iff s i).2 ⟨j, by omega, locked, tor⟩
      rw [free] at blocked
      cases blocked
  · exact .of_eq (congrArg State.pmp (if_neg stored))

/-- A write of any control register keeps what a lock protects. -/
theorem csrWrite_keepsLocked (s : State) (r : Csr) (v : Word) : s.pmp.KeepsLocked (s.csrWrite r v).pmp := by
  by_cases cfg : ∃ k, r = .pmpcfg k
  · obtain ⟨k, rfl⟩ := cfg
    exact writePmpcfg_keepsLocked s k v
  by_cases addr : ∃ i, r = .pmpaddr i
  · obtain ⟨i, rfl⟩ := addr
    exact writePmpaddr_keepsLocked s i v
  · have frame := csrWrite_frame s r v
    have sameCfg := frame.pmpcfg fun k e => cfg ⟨k, e⟩
    have sameAddr := frame.pmpaddr fun i e => addr ⟨i, e⟩
    exact ⟨fun i _ => by rw [sameCfg], fun i _ => by rw [sameAddr], fun i j _ _ _ => by rw [sameAddr]⟩

theorem csrExchange_keepsLocked (s : State) (r : Csr) (rd : Reg) (op : CsrOp) (imm : Bool) (v : Word) (performs : Bool) :
    s.pmp.KeepsLocked (s.csrExchange r rd op imm v performs).pmp := by
  have read : (s.csrRead r).2.pmp = s.pmp := by
    obtain ⟨_, _, _, e⟩ := csrRead_changes s r
    rw [e]
  have write : s.pmp.KeepsLocked (if performs then (s.csrRead r).2.csrWrite r (csrNew s.cfg op imm (s.csrRead r).1 v)
      else (s.csrRead r).2).pmp := by
    split
    · rw [← read]; exact csrWrite_keepsLocked _ r _
    · exact .of_eq read
  unfold State.csrExchange
  dsimp only
  split <;> simpa using write

/-! ### Instructions -/

theorem tcipWrite_pmp {s t : State} {a : Word} {size : AccessSize} {v : Word} (h : s.tcipWrite a size v = some t) :
    t.pmp = s.pmp := by
  obtain ⟨r, _, rfl⟩ := Option.map_eq_some_iff.1 h
  obtain ⟨_, _, e⟩ := tcipStore_changes s r size v
  rw [e]

theorem memWrite_pmp {s t : State} {a : Word} {size : AccessSize} {v : Word} (h : s.memWrite a size v = .ok t) :
    t.pmp = s.pmp := by
  rcases memWrite_cases s a size v with ⟨_, e⟩ | ⟨_, _, _, _, ⟨u, device, e⟩ | ⟨_, e⟩⟩ | ⟨_, e⟩ | ⟨_, e⟩ <;>
    rw [e] at h <;> cases h
  · exact State.storeBytes_pmp s a size v
  · exact tcipWrite_pmp device

theorem claimNext_pmp (s : State) (rd : Reg) : (s.claimNext rd).pmp = s.pmp := by
  unfold State.claimNext
  split <;> simp

/-- Every instruction keeps what a lock protects: all but the CSR instructions leave the PMP as it is. -/
theorem effect_keepsLocked {i : Instr} {s t : State} (h : ExecEffect i s t) : s.pmp.KeepsLocked t.pmp := by
  cases h with
  | csr _ r rd op imm v performs => exact csrExchange_keepsLocked s r rd op imm v performs
  | compute rd v d => exact .of_eq (by simp)
  | jump rd v target => exact .of_eq (by simp)
  | store a size v n u done => exact .of_eq (memWrite_pmp (t := u) done)
  | trap e => exact .of_eq (by simp)
  | cache c l => exact .refl _
  | debug => exact .refl _
  | trapReturn => exact .refl _
  | nmiReturn => exact .refl _
  | wait => exact .refl _
  | mnxti _ rd op v => exact .of_eq (claimNext_pmp _ rd)
  | scratch _ swap rd v => exact .of_eq (by simp [scratchSwap_changes])

theorem fetch_pmp (s : State) : s.fetch.2.pmp = s.pmp := by
  obtain ⟨_, _, e⟩ := fetch_changes s
  rw [e]

theorem runInstruction_keepsLocked {s t : State} (h : s.runInstruction = .next t) : s.pmp.KeepsLocked t.pmp := by
  rw [← fetch_pmp s]
  rcases runInstruction_cases s with ⟨e, _, k⟩ | ⟨r, _, k⟩ | ⟨code, i, _, _, k⟩ | ⟨code, _, _, k⟩ | ⟨code, _, _, k⟩ <;>
    rw [k] at h
  · cases h; exact .of_eq (State.trapEntry_pmp _ e)
  · cases h
  · exact effect_keepsLocked (exec_effect h)
  · cases h; exact .of_eq (State.trapEntry_pmp _ _)
  · cases h

theorem interruptEntry_pmp {s t : State} {x : ClicSource} (h : interruptEntry s x = .next t) : t.pmp = s.pmp := by
  unfold interruptEntry at h
  split at h
  · split at h <;> cases h
    rfl
  · cases h; rfl

theorem boundary_keepsLocked {s t : State} (h : s.boundary = .next t) : s.pmp.KeepsLocked t.pmp := by
  rcases boundary_cases s with ⟨_, k⟩ | ⟨_, x, _, k⟩ | ⟨_, _, k⟩ <;> rw [k] at h
  · cases h; exact .refl _
  · exact .of_eq (interruptEntry_pmp h)
  · exact runInstruction_keepsLocked h

theorem wakeUp_pmp (s : State) : s.wakeUp.pmp = s.pmp := by
  unfold State.wakeUp
  split <;> rfl

theorem hartTurn_keepsLocked {s t : State} (h : s.hartTurn = .next t) : s.pmp.KeepsLocked t.pmp := by
  rcases hartTurn_cases s with ⟨_, k⟩ | ⟨_, _, _, k⟩ | ⟨_, _, _, k⟩ | ⟨_, _, _, _, k⟩ | ⟨_, _, _, k⟩ <;> rw [k] at h
  · cases h; exact .refl _
  · cases h; exact .refl _
  · cases h; exact .refl _
  · cases h; exact .refl _
  · rw [← wakeUp_pmp s]; exact boundary_keepsLocked h

/-! ### The host's turn -/

theorem debugLeave_pmp (s : State) (pc : Word) : (s.debugLeave pc).pmp = s.pmp := by
  unfold State.debugLeave
  split
  · rfl
  · split <;> rfl

theorem outsideStore_pmp (s : State) (a : Word) (size : AccessSize) (v : Word) :
    (s.outsideStore a size v).pmp = s.pmp := by
  unfold State.outsideStore
  split
  · rfl
  · split
    · cases h : s.tcipWrite a size v with
      | none => rfl
      | some t => exact tcipWrite_pmp h
    · split <;> rfl

theorem ddmaWrite_pmp {s t : State} {v : Word} (h : s.ddmaWrite v = .ok t) : t.pmp = s.pmp := by
  unfold State.ddmaWrite at h
  split at h
  · cases h; rfl
  · split at h
    · split at h
      · split at h
        · next u device =>
          cases h
          split at device
          · exact tcipWrite_pmp (t := u) device
          · cases device
        · cases h
      · split at h <;> cases h <;> rfl
    · cases h

theorem ddmaRead_pmp {s t : State} (h : s.ddmaRead = .ok t) : t.pmp = s.pmp := by
  unfold State.ddmaRead at h
  split at h
  · cases h; rfl
  · split at h
    · cases h; rfl
    · split at h
      · split at h
        · split at h <;> cases h
          rfl
        · split at h <;> cases h <;> rfl
      · cases h

theorem inDebug_keepsLocked {s : State} {f : State → State} (h : s.pmp.KeepsLocked (f s).pmp) :
    s.pmp.KeepsLocked (s.inDebug f).pmp := by
  unfold State.inDebug
  split
  · exact h
  · exact .refl _

/-- The host events that a lock holds against: all but reset and the replacement of the whole state (20 R147,
60 R500). -/
def HostEvent.respectsLocks (e : HostEvent) : Prop := (∀ n, e ≠ .reset n) ∧ ∀ m, e ≠ .debugReplace m

/-- Such an event keeps what a lock protects: only a debugger's write of a control register reaches the PMP. -/
theorem hostEvent_keepsLocked {s t : State} {e : HostEvent} (respects : e.respectsLocks) (h : s.hostEvent e = .ok t) :
    s.pmp.KeepsLocked t.pmp := by
  obtain ⟨noReset, noReplace⟩ := respects
  cases e <;> simp only [State.hostEvent, Except.ok.injEq] at h
  case hadWriteDarwr => exact .of_eq (ddmaWrite_pmp h)
  case hadReadDarwr => exact .of_eq (ddmaRead_pmp h)
  all_goals subst h
  case reset n => exact absurd rfl (noReset n)
  case debugReplace m => exact absurd rfl (noReplace m)
  case debugCsr n v =>
    refine inDebug_keepsLocked ?_
    cases csr? n with
    | none => exact .refl _
    | some r => exact csrWrite_keepsLocked s r v
  case debugExit pc => exact inDebug_keepsLocked (.of_eq (debugLeave_pmp s pc))
  case debugReg r v => exact inDebug_keepsLocked (.of_eq (State.setReg_pmp s r v))
  case debugExptVld v => exact inDebug_keepsLocked (.refl _)
  case debugPriv p => exact inDebug_keepsLocked (.of_eq (by split <;> rfl))
  case debugStore a size v => exact inDebug_keepsLocked (.of_eq (outsideStore_pmp s a size v))
  case masterWrite a v => exact .of_eq (by split <;> rfl)
  all_goals exact .refl _

theorem hostEvents_keepsLocked {s t : State} {l : List HostEvent} (respects : ∀ e ∈ l, e.respectsLocks)
    (h : s.hostEvents l = .ok t) : s.pmp.KeepsLocked t.pmp := by
  induction l generalizing s with
  | nil => cases h; exact .refl _
  | cons e l ih =>
    unfold State.hostEvents at h
    split at h
    · next u hu =>
      have first := hostEvent_keepsLocked (respects e List.mem_cons_self) hu
      exact first.trans (ih (fun e' he' => respects e' (List.mem_cons_of_mem e he')) h)
    · cases h

theorem hostTurn_keepsLocked {s t : State} (respects : ∀ l ∈ s.schedule.head?, ∀ e ∈ l, e.respectsLocks)
    (h : s.hostTurn = .ok t) : s.pmp.KeepsLocked t.pmp := by
  unfold State.hostTurn at h
  split at h
  · cases h; exact .refl _
  · next now later due =>
    have dueNow : now ∈ s.schedule.head? := by simp [due]
    have events := hostEvents_keepsLocked (respects now dueNow) h
    exact events

/-- A step in which neither a reset nor a replacement of the state is due keeps what a lock protects. -/
theorem step_keepsLocked {s t : State} (respects : ∀ l ∈ s.schedule.head?, ∀ e ∈ l, e.respectsLocks)
    (h : step s = .next t) : s.pmp.KeepsLocked t.pmp := by
  rcases step_cases s with ⟨_, k⟩ | ⟨_, _, k⟩ | ⟨_, _, ⟨r, _, k⟩ | ⟨u, hu, k⟩⟩ <;> rw [k] at h
  · cases h
  · cases h
  · cases h
  · exact (hostTurn_keepsLocked respects hu).trans (hartTurn_keepsLocked (s := u.sample) h)

/-- Settles O45: the host's turn and the hart's turn each keep what a lock protects. -/
theorem pmpLockedUntilReset : Obligations.PmpLockedUntilReset := by
  intro s t i next respects locked
  have keeps := step_keepsLocked respects next
  exact ⟨keeps.cfg i locked, keeps.addr i locked, fun j below tor => keeps.below i j locked tor below⟩

end Sys2Proof.Machine


/-! SUPPORT. What memory reads determine: a canonical memory (`MemoryCanonical`), and a load after a store
(`LoadAfterStore`). -/

namespace Sys2Proof.Machine

/-! ### Canonical memories -/

/-- What a canonical memory lists is what it reads as, where that is not the unlisted byte. -/
theorem Memory.mem_iff_read {m : List Host.Cell} (h : Memory.wf m) (a : Nat) (v : Byte) :
    (a, v) ∈ m ↔ v ≠ unlistedByte ∧ Memory.read m a = v := by
  obtain ⟨rising, listed⟩ := h
  induction m with
  | nil => simp [eq_comm]
  | cons c m ih =>
    obtain ⟨b, w⟩ := c
    obtain ⟨above, rising⟩ := List.pairwise_cons.1 rising
    have rest := ih rising fun d hd => listed d (List.mem_cons_of_mem _ hd)
    have head : w ≠ unlistedByte := (listed (b, w) List.mem_cons_self).1
    by_cases hb : b = a
    · subst hb
      have absent : (b, v) ∉ m := fun hv => absurd (above _ hv) (Nat.lt_irrefl b)
      have first : (b, v) ∈ (b, w) :: m ↔ v = w := by simp [absent]
      rw [first, Memory.read, if_pos rfl]
      exact ⟨fun e => ⟨e ▸ head, e.symm⟩, fun e => e.2.symm⟩
    · rw [Memory.read, if_neg hb, ← rest, List.mem_cons]
      simp [Ne.symm hb]

/-- Settles O23: two canonical memories that read alike list the same bytes, in the same order. -/
theorem memoryCanonical : Obligations.MemoryCanonical := by
  intro m n hm hn alike
  have sameBytes : ∀ c, c ∈ m ↔ c ∈ n := fun ⟨a, v⟩ => by
    rw [Memory.mem_iff_read hm, Memory.mem_iff_read hn, alike a]
  exact List.Pairwise.eq_of_mem_iff hm.1 hn.1 sameBytes

/-! ### A read of what a store wrote -/

/-- Bit `i` of a little-endian read: bit `i % 8` of byte `i / 8`. -/
theorem Memory.getLsbD_readLE (m : List Host.Cell) (a : Word) (n i : Nat) (hi : i < 32) :
    (Memory.readLE m a n).getLsbD i =
      (decide (i < 8 * n) && (Memory.read m (a + BitVec.ofNat 32 (i / 8)).toNat).getLsbD (i % 8)) := by
  induction n generalizing a i with
  | zero => simp [Memory.readLE]
  | succ n ih =>
    rw [Memory.readLE, BitVec.getLsbD_or, BitVec.getLsbD_shiftLeft, BitVec.getLsbD_setWidth]
    by_cases low : i < 8
    · simp [low, hi, show i < 8 * (n + 1) by omega, Nat.div_eq_of_lt low, Nat.mod_eq_of_lt low]
    · have address : a + BitVec.ofNat 32 (i / 8) = a + 1 + BitVec.ofNat 32 ((i - 8) / 8) := by
        rw [show i / 8 = 1 + (i - 8) / 8 by omega, BitVec.ofNat_add, BitVec.add_assoc]
        rfl
      have outside : (Memory.read m a.toNat).getLsbD i = false := BitVec.getLsbD_of_ge _ _ (by omega)
      rw [ih _ _ (by omega), ← address, outside, show (i - 8) % 8 = i % 8 by omega]
      simp [low, hi, show i - 8 < 8 * n ↔ i < 8 * (n + 1) by omega]

/-- The first `k` bytes of what a store wrote read as the low `8 * k` bits of the value. -/
theorem Memory.readLE_writeLE (m : List Host.Cell) (a v : Word) {n k : Nat} (hn : n ≤ 4) (hk : k ≤ n) :
    Memory.readLE (Memory.writeLE m a n v) a k = (v.setWidth (8 * k)).setWidth 32 := by
  refine BitVec.eq_of_getLsbD_eq fun i hi => ?_
  rw [Memory.getLsbD_readLE _ _ _ _ hi]
  by_cases inside : i < 8 * k
  · rw [Memory.read_writeLE_same m a n v hn (i / 8) (by omega)]
    simp [inside, hi, show i % 8 < 8 by omega, show 8 * (i / 8) + i % 8 = i by omega]
  · simp [inside]

/-- The next state of a store that writes memory. -/
theorem exec_sw_memory {s : State} {rs1 rs2 : Reg} {imm : BitVec 12}
    (h : s.storesMemory (s.effectiveAddress rs1 imm) .word) :
    exec (.sw rs2 rs1 imm) s = .next ((s.storeBytes (s.effectiveAddress rs1 imm) .word (s.reg rs2)).advance 4) := by
  show store s (s.effectiveAddress rs1 imm) .word (s.reg rs2) 4 = _
  rw [store, memWrite_memory _ h]

/-- After a word is stored, a load at its address gives the low bytes of the word, extended as the load does. -/
theorem load_storeBytes {s : State} {a : Word} {size : AccessSize} {v w : Word} {f : Word → Word}
    (h : s.loadsMemory a size) (rd : Reg) (value : f ((v.setWidth (8 * size.bytes)).setWidth 32) = w) :
    ∃ u, load ((s.storeBytes a .word v).advance 4) rd a size f 4 = .next u ∧
      RegResult ((s.storeBytes a .word v).advance 4) u rd w 4 := by
  have kept : ((s.storeBytes a .word v).advance 4).loadsMemory a size := h
  have read : Memory.readLE ((s.storeBytes a .word v).advance 4).mem a size.bytes =
      (v.setWidth (8 * size.bytes)).setWidth 32 :=
    Memory.readLE_writeLE s.mem a v (Nat.le_refl 4) (by cases size <;> decide)
  rw [← value, ← read]
  exact load_memory rd f 4 kept

/-- Settles O22: the address and the conditions of the load are those before the store. -/
theorem loadAfterStore : Obligations.LoadAfterStore := by
  intro s t rd rs1 rs2 imm stores next
  rw [exec_sw_memory stores] at next
  cases next
  refine ⟨fun loads => ?word, fun loads => ?half, fun loads => ?byte⟩
  case word => exact load_storeBytes loads rd (f := id) (BitVec.setWidth_eq (s.reg rs2))
  case half => exact load_storeBytes loads rd (f := zeroHalf) (by simp [zeroHalf, AccessSize.bytes])
  case byte => exact load_storeBytes loads rd (f := signByte) (by simp [signByte, AccessSize.bytes])

end Sys2Proof.Machine


/-! SUPPORT. Fetching a half: which parcels it may return and which lines it records (`FetchOldOrNew`). -/

namespace Sys2Proof.Machine

/-! ### The parcel -/

/-- The parcel chosen is one of those offered. -/
theorem chooseParcel_mem (s : State) (h : Half) (l : List Half) :
    (s.chooseParcel h l).1 = h ∨ (s.chooseParcel h l).1 ∈ l := by
  cases l with
  | nil => exact .inl rfl
  | cons o os =>
    dsimp only [State.chooseParcel]
    by_cases last : Config.freeChoice s.draws % (os.length + 2) < (o :: os).length
    · exact .inr (by rw [List.getD_eq_getElem _ _ last]; exact List.getElem_mem last)
    · exact .inl (List.getD_eq_default _ _ (Nat.le_of_not_lt last))

/-- A parcel offered as stale is remembered for that address. -/
theorem mem_staleParcels {s : State} {a : Word} {current h : Half} (hh : h ∈ s.staleParcels a current) :
    (a.toNat, h) ∈ s.stale := by
  obtain ⟨⟨b, x⟩, he, rfl⟩ := List.mem_map.1 hh
  obtain ⟨remembered, same⟩ := List.mem_filter.1 he
  simp only [Bool.and_eq_true, beq_iff_eq] at same
  rwa [same.1] at remembered

/-- The parcel a fetch returns, where the line's contents are known: memory's, a remembered one, or the copy's. -/
theorem parcelAt_mem {s : State} {a : Word} (known : s.usesIcache a = true → s.icache.view (lineOf a) ≠ .anything) :
    (s.parcelAt a).1 = s.halfAt a ∨ (a.toNat, (s.parcelAt a).1) ∈ s.stale ∨
      s.usesIcache a = true ∧ ∃ bytes, s.icache.view (lineOf a) = .copy bytes ∧
        (s.parcelAt a).1 = copyParcel bytes a := by
  have plain : ∀ h, h = (s.chooseParcel (Memory.readHalf s.mem a) (s.staleParcels a (Memory.readHalf s.mem a))).1 →
      h = s.halfAt a ∨ (a.toNat, h) ∈ s.stale := by
    rintro h rfl
    exact (chooseParcel_mem s _ _).imp id mem_staleParcels
  unfold State.parcelAt
  dsimp only
  by_cases uses : s.usesIcache a = true
  · rw [if_pos uses]
    cases hv : s.icache.view (lineOf a) with
    | absent => exact (plain _ rfl).imp id .inl
    | copy bytes =>
      dsimp only
      split
      · exact (plain _ rfl).imp id .inl
      · rcases chooseParcel_mem s (Memory.readHalf s.mem a)
          (copyParcel bytes a :: s.staleParcels a (Memory.readHalf s.mem a)) with h | h
        · exact .inl h
        · rcases List.mem_cons.1 h with h | h
          · exact .inr (.inr ⟨uses, bytes, rfl, h⟩)
          · exact .inr (.inl (mem_staleParcels h))
    | anything => exact absurd hv (known uses)
  · rw [if_neg uses]
    exact (plain _ rfl).imp id .inl

/-! ### The cache -/

/-- The line just recorded is found, every other line as before. -/
theorem Icache.view_put (c : Icache) (line other : Nat) (bytes : Vector Byte 16) :
    (c.put line (some bytes)).view other = if other = line then .copy bytes else c.view other := by
  by_cases same : other = line
  · subst same
    simp [Icache.view, Icache.put]
  · have skip : (c.put line (some bytes)).lines.find? (fun e => e.1 == other) =
        c.lines.find? (fun e => e.1 == other) := by
      rw [Icache.put, List.find?_cons_of_neg (by simpa using Ne.symm same), List.find?_filter]
      congr 1
      funext e
      by_cases h : e.1 = other <;> simp [h, same]
    rw [if_neg same, Icache.view, skip]
    rfl

/-- Recording a line leaves every line as it was, or gives the fetched one a copy of memory. -/
theorem fillLine_view (s : State) (a : Word) (v : LineView) (line : Nat) :
    (s.fillLine a v).icache.view line = s.icache.view line ∨
      line = lineOf a ∧ (s.fillLine a v).icache.view line = .copy (memoryLine s.mem line) := by
  have kinds : (s.fillLine a v).icache = s.icache ∨
      (s.fillLine a v).icache = s.icache.put (lineOf a) (some (memoryLine s.mem (lineOf a))) := by
    unfold State.fillLine
    cases v with
    | absent => exact .inr rfl
    | copy bytes =>
      dsimp only
      split
      · exact .inl rfl
      · split
        · exact .inr rfl
        · exact .inl rfl
    | anything =>
      dsimp only
      split
      · exact .inr rfl
      · exact .inl rfl
  rcases kinds with h | h <;> rw [h]
  · exact .inl rfl
  · rw [Icache.view_put]
    split
    · next e => exact .inr ⟨e, by rw [e]⟩
    · exact .inl rfl

/-- Through the cache, a fetch may draw and then records the line. -/
theorem parcelAt_cached {s : State} {a : Word} (uses : s.usesIcache a = true) :
    ∃ d, (s.parcelAt a).2 = ({ s with draws := d } : State).fillLine a (s.icache.view (lineOf a)) := by
  unfold State.parcelAt
  dsimp only
  rw [if_pos uses]
  have fill : ∀ t : State, (∃ d, t = { s with draws := d }) → ∀ v : LineView,
      ∃ d, t.fillLine a v = ({ s with draws := d } : State).fillLine a v := by
    rintro _ ⟨d, rfl⟩ v
    exact ⟨d, rfl⟩
  apply fill
  cases s.icache.view (lineOf a) with
  | absent => exact chooseParcel_changes s _ _
  | copy bytes => dsimp only; split <;> exact chooseParcel_changes s _ _
  | anything =>
    obtain ⟨d, e⟩ := chooseParcel_changes s.drawn (Memory.readHalf s.mem a)
      (Config.freeParcel s.draws :: s.staleParcels a (Memory.readHalf s.mem a))
    exact ⟨d, e⟩

/-- Past the cache, a fetch may draw and does no more. -/
theorem parcelAt_uncached {s : State} {a : Word} (uses : s.usesIcache a ≠ true) :
    ∃ d, (s.parcelAt a).2 = { s with draws := d } := by
  unfold State.parcelAt
  dsimp only
  rw [if_neg uses]
  exact chooseParcel_changes s _ _

/-- The lines of the cache after a fetch. -/
theorem parcelAt_view (s : State) (a : Word) (line : Nat) :
    (s.parcelAt a).2.icache.view line = s.icache.view line ∨
      line = lineOf a ∧ s.usesIcache a = true ∧ (s.parcelAt a).2.icache.view line = .copy (memoryLine s.mem line) := by
  by_cases uses : s.usesIcache a = true
  · obtain ⟨d, e⟩ := parcelAt_cached uses
    rw [e]
    rcases fillLine_view { s with draws := d } a (s.icache.view (lineOf a)) line with h | ⟨same, h⟩
    · exact .inl h
    · exact .inr ⟨same, uses, h⟩
  · obtain ⟨d, e⟩ := parcelAt_uncached uses
    rw [e]
    exact .inl rfl

/-! ### One half -/

/-- A fetch that succeeds is outside the TCIP region and gives the parcel there. -/
theorem fetchHalf_ok {s t : State} {a : Word} {h : Half} (ok : s.fetchHalf a = .ok (h, t)) :
    inTcip a = false ∧ s.parcelAt a = (h, t) := by
  unfold State.fetchHalf at ok
  split at ok
  · cases ok
  split at ok
  · split at ok <;> cases ok
  next outside =>
  split at ok
  · cases ok
  · exact ⟨by simpa using outside, Access.ok.inj ok⟩

/-- Settles O32: the parcel by what may be chosen, the state by what choosing and recording change. -/
theorem fetchOldOrNew : Obligations.FetchOldOrNew := by
  intro s t a h ok known
  obtain ⟨_, parcel⟩ := fetchHalf_ok ok
  have value := parcelAt_mem known
  have lines := parcelAt_view s a
  rw [parcel] at value lines
  obtain ⟨c, d, e⟩ := fetchHalf_changes ok
  exact ⟨value, by rw [e], lines⟩

end Sys2Proof.Machine


/-! SUPPORT. The steps whose fetch fails, is refused or finds no instruction: each outcome of the fetch of a half, of the
whole fetch and of the instruction at the pc, said once (`FetchFaultStep`). -/

namespace Sys2Proof.Machine

/-! ### One half -/

/-- The fetch of this half is denied by the PMP, or answered with an error by the bus (20 R162). -/
def State.fetchFaults (s : State) (a : Word) : Prop :=
  s.pmpAllows s.priv .fetch a = false ∨ inTcip a = false ∧ s.busError a .half .fetch = true

theorem fetchHalf_faults {s : State} {a : Word} (h : s.fetchFaults a) :
    s.fetchHalf a = .raised (.instrAccessFault a) := by
  unfold State.fetchHalf
  rcases h with denied | ⟨outside, error⟩
  · simp [denied]
  · simp [outside, error]

/-- A fetch from the TCIP region raises the exception in the first step after reset at RESET_ADDR. -/
theorem fetchHalf_tcip_first {s : State} {a : Word} (allowed : s.pmpAllows s.priv .fetch a = true)
    (tcip : inTcip a = true) (first : s.sinceReset = .first ∧ s.pc = s.cfg.resetAddr) :
    s.fetchHalf a = .raised (.instrAccessFault a) := by
  simp [State.fetchHalf, allowed, tcip, first]

/-- Every other fetch from the TCIP region is refused. -/
theorem fetchHalf_tcip {s : State} {a : Word} (allowed : s.pmpAllows s.priv .fetch a = true)
    (tcip : inTcip a = true) (notFirst : ¬ (s.sinceReset = .first ∧ s.pc = s.cfg.resetAddr)) :
    s.fetchHalf a = .refused .tcipFetch := by
  simp [State.fetchHalf, allowed, tcip, notFirst]

/-- A fetch that reads memory as it is changes nothing. -/
theorem fetchHalf_memory {s : State} {a : Word} (h : s.fetchesMemory a) : s.fetchHalf a = .ok (s.halfAt a, s) := by
  obtain ⟨allowed, outside, noError, uncached, noneStale⟩ := h
  have current : s.staleParcels a (Memory.readHalf s.mem a) = [] := by
    refine List.map_eq_nil_iff.2 (List.filter_eq_nil_iff.2 fun e he => ?_)
    simp [noneStale e he]
  have parcel : s.parcelAt a = (s.halfAt a, s) := parcelAt_memory uncached current
  simp [State.fetchHalf, allowed, outside, noError, parcel]

/-! ### Both halves -/

theorem fetch_raised {s : State} {e : Exc} (h : s.fetchHalf s.pc = .raised e) : s.fetch = (.raised e, s) := by
  simp [State.fetch, h]

theorem fetch_refused {s : State} {r : Refusal} (h : s.fetchHalf s.pc = .refused r) : s.fetch = (.refused r, s) := by
  simp [State.fetch, h]

section SecondHalf

variable {s s1 : State} {p0 : Half} (first : s.fetchHalf s.pc = .ok (p0, s1))

include first

theorem fetch_compressed (short : p0.extractLsb' 0 2 ≠ 3#2) : s.fetch = (.ok (.c16 p0), s1) := by
  simp [State.fetch, first, short, codeOfParcels]

theorem fetch_second_raised {e : Exc} (long : p0.extractLsb' 0 2 = 3#2)
    (second : s1.fetchHalf (s.pc + 2) = .raised e) : s.fetch = (.raised e, s1) := by
  rw [State.fetch, first]
  dsimp only
  rw [if_pos long, second]

theorem fetch_second_refused {r : Refusal} (long : p0.extractLsb' 0 2 = 3#2)
    (second : s1.fetchHalf (s.pc + 2) = .refused r) : s.fetch = (.refused r, s1) := by
  rw [State.fetch, first]
  dsimp only
  rw [if_pos long, second]

theorem fetch_word {s2 : State} {p1 : Half} (long : p0.extractLsb' 0 2 = 3#2)
    (second : s1.fetchHalf (s.pc + 2) = .ok (p1, s2)) : s.fetch = (.ok (.c32 (p1 ++ p0)), s2) := by
  have code : codeOfParcels p0 p1 = .c32 (p1 ++ p0) := if_pos long
  rw [State.fetch, first]
  dsimp only
  rw [if_pos long, second, ← code]

end SecondHalf

/-! ### The instruction at the pc -/

theorem runInstruction_raised {s t : State} {e : Exc} (h : s.fetch = (.raised e, t)) :
    s.runInstruction = .next (t.trapEntry e) := by
  simp [State.runInstruction, h]

theorem runInstruction_refused {s t : State} {r : Refusal} (h : s.fetch = (.refused r, t)) :
    s.runInstruction = .refused r := by
  simp [State.runInstruction, h]

theorem runInstruction_illegal {s t : State} {code : Code} (h : s.fetch = (.ok code, t))
    (illegal : decodeCode t.cfg code = .illegal) : s.runInstruction = .next (t.trapEntry (.illegal code.toWord)) := by
  simp [State.runInstruction, h, illegal]

theorem runInstruction_constraint {s t : State} {code : Code} (h : s.fetch = (.ok code, t))
    (constraint : decodeCode t.cfg code = .constraint) : s.runInstruction = .refused .rvcConstraint := by
  simp [State.runInstruction, h, constraint]

/-- A step that takes nothing executes the instruction at the pc. -/
theorem step_executes {s : State} (h : s.executes) : step s = s.sample.runInstruction := by
  obtain ⟨quiet, running, noNmi, noInterrupt⟩ := h
  have notTaken : (s.sample.nmiPending && !s.sample.inNmi) = false := by
    rcases noNmi with h | h <;> simp only [h, Bool.false_and, Bool.not_true, Bool.and_false]
  rw [step_running quiet running]
  rcases boundary_cases s.sample with ⟨taken, _⟩ | ⟨_, x, taken, _⟩ | ⟨_, _, e⟩
  · rw [notTaken] at taken; cases taken
  · rw [noInterrupt] at taken; cases taken
  · exact e

/-! ### The region's border and the first step -/

theorem inTcip_iff (a : Word) : inTcip a = true ↔ a.toNat / 2 ^ 28 = 14 := by
  rw [inTcip, beq_iff_eq, ← BitVec.toNat_inj, BitVec.extractLsb'_toNat, Nat.shiftRight_eq_div_pow]
  have bound := a.isLt
  have code : (0xE#4).toNat = 14 := rfl
  omega

/-- RESET_ADDR is word aligned, so an instruction there does not straddle the border of the TCIP region. -/
theorem ne_resetAddr_of_border {c : Config} {a : Word} (outside : inTcip a = false) (inside : inTcip (a + 2) = true) :
    a ≠ c.resetAddr := by
  rintro rfl
  have aligned : c.resetAddr.toNat % 4 = 0 := by
    rw [Config.resetAddr, BitVec.toNat_append, Nat.shiftLeft_eq]
    simp
  rw [← Bool.not_eq_true, inTcip_iff] at outside
  have two : (2 : Word).toNat = 2 := rfl
  rw [inTcip_iff, BitVec.toNat_add, two] at inside
  omega

/-- The step before which no step was taken is the first. -/
theorem sample_first_iff (s : State) : s.sample.sinceReset = .first ↔ s.sinceReset = .fresh := by
  show s.sinceReset.next = .first ↔ s.sinceReset = .fresh
  cases s.sinceReset <;> simp [SinceReset.next]

/-! ### The step -/

/-- A step that raises an exception has the outcome of raising it. -/
theorem trapOutcome_of_step {s t : State} {e : Exc} (h : step s = .next (t.trapEntry e)) :
    ∃ t', step s = .next t' ∧ TrapOutcome t t' e.code e.info :=
  ⟨_, h, trapEntry_outcome t e⟩

section AfterFirstHalf

variable {s u1 : State} {h : Half} (executes : s.executes) (first : s.sample.fetchHalf s.sample.pc = .ok (h, u1))

include executes first

theorem step_illegal16 (short : h.extractLsb' 0 2 ≠ 3#2) (illegal : decodeCode s.sample.cfg (.c16 h) = .illegal) :
    ∃ t, step s = .next t ∧ TrapOutcome u1 t 2 (h.setWidth 32) := by
  obtain ⟨c, d, rfl⟩ := fetchHalf_changes first
  refine trapOutcome_of_step (e := .illegal (h.setWidth 32)) ?_
  rw [step_executes executes]
  exact runInstruction_illegal (fetch_compressed first short) illegal

theorem step_constraint16 (short : h.extractLsb' 0 2 ≠ 3#2)
    (constraint : decodeCode s.sample.cfg (.c16 h) = .constraint) : step s = .refused .rvcConstraint := by
  obtain ⟨c, d, rfl⟩ := fetchHalf_changes first
  rw [step_executes executes]
  exact runInstruction_constraint (fetch_compressed first short) constraint

theorem step_second_faults (long : h.extractLsb' 0 2 = 3#2) (faults : s.sample.fetchFaults (s.sample.pc + 2)) :
    ∃ t, step s = .next t ∧ TrapOutcome u1 t 1 (s.sample.pc + 2) := by
  have second : u1.fetchHalf (s.sample.pc + 2) = .raised (.instrAccessFault (s.sample.pc + 2)) := by
    obtain ⟨c, d, rfl⟩ := fetchHalf_changes first
    exact fetchHalf_faults faults
  refine trapOutcome_of_step (e := .instrAccessFault (s.sample.pc + 2)) ?_
  rw [step_executes executes]
  exact runInstruction_raised (fetch_second_raised first long second)

/-- A second half in the TCIP region is refused: the pc is below the region's border, so it is not RESET_ADDR. -/
theorem step_second_tcip (long : h.extractLsb' 0 2 = 3#2)
    (allowed : s.sample.pmpAllows s.sample.priv .fetch (s.sample.pc + 2) = true)
    (tcip : inTcip (s.sample.pc + 2) = true) : step s = .refused .tcipFetch := by
  obtain ⟨outside, _⟩ := fetchHalf_ok first
  have second : u1.fetchHalf (s.sample.pc + 2) = .refused .tcipFetch := by
    obtain ⟨c, d, rfl⟩ := fetchHalf_changes first
    exact fetchHalf_tcip allowed tcip fun atReset => ne_resetAddr_of_border outside tcip atReset.2
  rw [step_executes executes]
  exact runInstruction_refused (fetch_second_refused first long second)

theorem step_illegal32 {h2 : Half} {u2 : State} (long : h.extractLsb' 0 2 = 3#2)
    (second : u1.fetchHalf (s.sample.pc + 2) = .ok (h2, u2))
    (illegal : decodeCode s.sample.cfg (.c32 (h2 ++ h)) = .illegal) :
    ∃ t, step s = .next t ∧ TrapOutcome u2 t 2 (h2 ++ h) := by
  have cfg : u2.cfg = s.sample.cfg := by
    obtain ⟨_, _, e1⟩ := fetchHalf_changes first
    obtain ⟨_, _, e2⟩ := fetchHalf_changes second
    rw [e2, e1]
  refine trapOutcome_of_step (e := .illegal (h2 ++ h)) ?_
  rw [step_executes executes]
  exact runInstruction_illegal (fetch_word first long second) (by rw [cfg]; exact illegal)

end AfterFirstHalf

/-- Settles O56. The clauses on `fetchesMemory` are those on `fetchHalf` for the memory's own parcel. -/
theorem fetchFaultStep : Obligations.FetchFaultStep := by
  rintro s u executes rfl
  refine ⟨?faults, ?tcip, ?second, ?illegal16, ?illegal32, ?fetched⟩
  case faults =>
    intro faults
    refine trapOutcome_of_step (e := .instrAccessFault s.sample.pc) ?_
    rw [step_executes executes]
    exact runInstruction_raised (fetch_raised (fetchHalf_faults faults))
  case tcip =>
    intro allowed tcip
    rw [← sample_first_iff]
    refine ⟨fun first => trapOutcome_of_step (e := .instrAccessFault s.sample.pc) ?_, fun notFirst => ?_⟩
    · rw [step_executes executes]
      exact runInstruction_raised (fetch_raised (fetchHalf_tcip_first allowed tcip first))
    · rw [step_executes executes]
      exact runInstruction_refused (fetch_refused (fetchHalf_tcip allowed tcip notFirst))
  case second =>
    exact fun memory long faults => step_second_faults executes (fetchHalf_memory memory) long faults
  case illegal16 =>
    exact fun memory short illegal => step_illegal16 executes (fetchHalf_memory memory) short illegal
  case illegal32 =>
    exact fun memory memory2 long illegal =>
      step_illegal32 executes (fetchHalf_memory memory) long (fetchHalf_memory memory2) illegal
  case fetched =>
    intro h u1 first
    refine ⟨fun short => ⟨step_illegal16 executes first short, step_constraint16 executes first short⟩, fun long => ?_⟩
    exact ⟨step_second_faults executes first long, step_second_tcip executes first long,
      fun h2 u2 second illegal => step_illegal32 executes first long second illegal⟩

end Sys2Proof.Machine


/-! SUPPORT. The PMP check: the scan of the entries, in which the lowest-numbered matching one decides (`PmpDecision`). -/

namespace Sys2Proof.Machine

/-! ### The scan -/

theorem pmp_entries_length (s : State) (n : Nat) : (s.pmp.entries n).length = min n 16 := by
  simp [Pmp.entries]

/-- The entries in order: each with its byte, its address register and the one below it. -/
theorem pmp_entries_getElem (s : State) {n i : Nat} (h : i < (s.pmp.entries n).length) (hi : i < 16) :
    (s.pmp.entries n)[i] = s.pmpEntry ⟨i, hi⟩ := by
  cases i <;> simp [Pmp.entries, State.pmpEntry]

/-- The first matching entry decides. -/
theorem pmpScan_of_first {p : Priv} {kind : AccessKind} {a : Word} {l : List PmpEntry} {k : Nat} (hk : k < l.length)
    (hit : l[k].hits a = true) (lower : ∀ j (hj : j < k), l[j].hits a = false) :
    pmpScan p kind a l = l[k].allows p kind := by
  induction l generalizing k with
  | nil => exact absurd hk (Nat.not_lt_zero k)
  | cons e l ih =>
    cases k with
    | zero => exact if_pos hit
    | succ k =>
      have skip : e.hits a = false := lower 0 (Nat.succ_pos k)
      rw [pmpScan, skip]
      exact ih (Nat.lt_of_succ_lt_succ hk) hit fun j hj => lower (j + 1) (Nat.succ_lt_succ hj)

/-- Without a matching entry the privilege decides. -/
theorem pmpScan_of_none {p : Priv} {kind : AccessKind} {a : Word} {l : List PmpEntry}
    (none : ∀ e ∈ l, e.hits a = false) : pmpScan p kind a l = (p == .machine) := by
  induction l with
  | nil => rfl
  | cons e l ih =>
    rw [pmpScan, none e List.mem_cons_self]
    exact ih fun e' he' => none e' (List.mem_cons_of_mem e he')

/-- What a matching entry decides, in the words of 20 R149. -/
theorem PmpEntry.allows_eq (e : PmpEntry) (p : Priv) (kind : AccessKind) :
    e.allows p kind = if e.cfg.getLsbD 7 = false ∧ p = .machine then true else pmpPermits e.cfg kind := by
  rw [PmpEntry.allows, pmpLocked]
  cases e.cfg.getLsbD 7 <;> cases p <;> simp

theorem pmpAllows_eq_scan {s : State} (present : s.cfg.pmpEntries ≠ .none) (p : Priv) (kind : AccessKind) (a : Word) :
    s.pmpAllows p kind a = pmpScan p kind a (s.pmp.entries s.cfg.pmpEntries.toNat) := by
  rw [State.pmpAllows, beq_eq_false_iff_ne.2 present, Bool.false_or]

/-- Settles O46, by the first matching entry of the scan. -/
theorem pmpDecision : Obligations.PmpDecision := by
  intro s p kind a
  refine ⟨fun i inRange hit lower => ?decides, fun present miss => ?privilege⟩
  case decides =>
    have present : s.cfg.pmpEntries ≠ .none := fun h => by rw [h] at inRange; exact absurd inRange (Nat.not_lt_zero _)
    have inList : i.val < (s.pmp.entries s.cfg.pmpEntries.toNat).length := by
      rw [pmp_entries_length]
      exact Nat.lt_min.2 ⟨inRange, i.isLt⟩
    have entry := pmp_entries_getElem s inList i.isLt
    rw [pmpAllows_eq_scan present, pmpScan_of_first inList (by rwa [entry]), entry, PmpEntry.allows_eq]
    · cases kind <;> rfl
    · intro j hj
      rw [pmp_entries_getElem s _ (by omega)]
      exact lower ⟨j, by omega⟩ hj
  case privilege =>
    rw [pmpAllows_eq_scan present, pmpScan_of_none]
    · cases p <;> rfl
    · intro e he
      obtain ⟨i, hi, rfl⟩ := List.mem_iff_getElem.1 he
      obtain ⟨inRange, inVector⟩ := Nat.lt_min.1 (Nat.lt_of_lt_of_eq hi (pmp_entries_length s _))
      rw [pmp_entries_getElem s hi inVector]
      exact miss ⟨i, inVector⟩ inRange

end Sys2Proof.Machine


/-! SUPPORT. What a PMP entry matches in each of its modes, as ranges of addresses (`PmpMatch`). -/

namespace Sys2Proof.Machine

/-! ### The modes -/

theorem PmpEntry.hits_off {e : PmpEntry} (mode : pmpMode e.cfg = 0#2) (a : Word) : e.hits a = false := by
  simp [PmpEntry.hits, mode]

theorem PmpEntry.hits_tor {e : PmpEntry} (mode : pmpMode e.cfg = 1#2) (a : Word) :
    e.hits a = true ↔ pmpBound e.below ≤ a ∧ a < pmpBound e.addr := by
  simp [PmpEntry.hits, mode]

theorem PmpEntry.hits_na4 {e : PmpEntry} (mode : pmpMode e.cfg = 2#2) (a : Word) :
    e.hits a = true ↔ a &&& 0xFFFFFFFC#32 = pmpBound e.addr := by
  simp [PmpEntry.hits, mode]

theorem PmpEntry.hits_napot {e : PmpEntry} (mode : pmpMode e.cfg = 3#2) (a : Word) :
    e.hits a = true ↔ ((a >>> 2) ^^^ e.addr) &&& ~~~ napotMask e.addr &&& 0x3FFFFFFF#32 = 0#32 := by
  simp [PmpEntry.hits, mode]

/-! ### Bounds and words -/

theorem pmpBound_toNat (addr : Word) : (pmpBound addr).toNat = 4 * (addr.toNat % 2 ^ 30) := by
  rw [pmpBound, BitVec.toNat_append, BitVec.extractLsb'_toNat, Nat.shiftLeft_eq]
  simp [Nat.mul_comm]

/-- The word of an address, as a number. -/
theorem wordAddress_toNat (a : Word) : (a &&& 0xFFFFFFFC#32).toNat = 4 * (a.toNat / 4) := by
  have split : a &&& 0xFFFFFFFC#32 = (a >>> 2) <<< 2 := by
    rw [show 0xFFFFFFFC#32 = BitVec.allOnes 32 <<< 2 from rfl]
    ext i hi
    rw [BitVec.getElem_and, BitVec.getElem_shiftLeft, BitVec.getElem_shiftLeft, BitVec.getElem_allOnes]
    by_cases low : i < 2
    · simp [low]
    · simp [low, show 2 + (i - 2) = i by omega, BitVec.getLsbD_eq_getElem hi]
  rw [split, BitVec.toNat_shiftLeft, BitVec.toNat_ushiftRight, Nat.shiftRight_eq_div_pow, Nat.shiftLeft_eq]
  have bound := a.isLt
  omega

/-! ### NAPOT -/

/-- Of a number with `k` trailing ones, the bits up to the zero above them change when 1 is added, and no other. -/
theorem testBit_xor_succ {n k : Nat} (ones : n % 2 ^ (k + 1) = 2 ^ k - 1) (i : Nat) :
    (n ^^^ (n + 1)).testBit i = decide (i ≤ k) := by
  have double : 2 ^ (k + 1) = 2 * 2 ^ k := Nat.pow_succ'
  have positive : 0 < 2 ^ k := Nat.two_pow_pos k
  have divided := Nat.div_add_mod n (2 ^ (k + 1))
  have succ : n + 1 = 2 ^ k + 2 ^ (k + 1) * (n / 2 ^ (k + 1)) := by omega
  rw [Nat.testBit_xor]
  by_cases low : i ≤ k
  · have bit : ∀ m : Nat, m.testBit i = (m % 2 ^ (k + 1)).testBit i := fun m => by
      rw [Nat.testBit_mod_two_pow, decide_eq_true (Nat.lt_succ_of_le low), Bool.true_and]
    have succMod : (n + 1) % 2 ^ (k + 1) = 2 ^ k := by
      rw [succ, Nat.add_mul_mod_self_left, Nat.mod_eq_of_lt (by omega)]
    rw [bit n, bit (n + 1), ones, succMod, Nat.testBit_two_pow_sub_one, Nat.testBit_two_pow]
    rcases Nat.lt_or_eq_of_le low with lt | rfl
    · simp [lt, Nat.ne_of_gt lt, low]
    · simp
  · have succDiv : (n + 1) / 2 ^ (k + 1) = n / 2 ^ (k + 1) := by
      rw [succ, Nat.add_mul_div_left _ _ (by omega), Nat.div_eq_of_lt (by omega), Nat.zero_add]
    have bit : ∀ m : Nat, m.testBit i = (m / 2 ^ (k + 1)).testBit (i - (k + 1)) := fun m => by
      rw [Nat.testBit_div_two_pow, Nat.sub_add_cancel (by omega)]
    rw [bit n, bit (n + 1), succDiv, Bool.xor_self, decide_eq_false low]

/-- The bits of PMPADDR that a NAPOT entry with `k` trailing ones does not compare: those up to bit `k`. -/
theorem getLsbD_napotMask {addr : Word} {k : Nat} (ones : addr.toNat % 2 ^ (k + 1) = 2 ^ k - 1) {i : Nat} (hi : i < 32) :
    (napotMask addr).getLsbD i = decide (i ≤ k) := by
  rw [← testBit_xor_succ ones i, napotMask, BitVec.getLsbD_xor, Nat.testBit_xor, ← BitVec.testBit_toNat,
    ← BitVec.testBit_toNat, BitVec.toNat_add]
  congr 1
  exact (Nat.testBit_mod_two_pow _ 32 i).trans (by simp [hi])

/-- A NAPOT entry with `k` trailing ones compares bits `k + 1` to 29 of PMPADDR with the address shifted by 2. -/
theorem napot_hits_iff_bits {e : PmpEntry} {k : Nat} (mode : pmpMode e.cfg = 3#2)
    (ones : e.addr.toNat % 2 ^ (k + 1) = 2 ^ k - 1) (a : Word) :
    e.hits a = true ↔ ∀ i, k < i → i < 30 → a.getLsbD (i + 2) = e.addr.getLsbD i := by
  have bit : ∀ i, i < 32 → (((a >>> 2) ^^^ e.addr) &&& ~~~ napotMask e.addr &&& 0x3FFFFFFF#32).getLsbD i =
      (decide (k < i ∧ i < 30) && (a.getLsbD (i + 2) ^^ e.addr.getLsbD i)) := by
    intro i hi
    rw [show 0x3FFFFFFF#32 = (BitVec.allOnes 30).setWidth 32 from rfl]
    simp only [BitVec.getLsbD_and, BitVec.getLsbD_xor, BitVec.getLsbD_ushiftRight, BitVec.getLsbD_not,
      getLsbD_napotMask ones hi, BitVec.getLsbD_setWidth, BitVec.getLsbD_allOnes, hi, Nat.add_comm 2 i]
    by_cases above : k < i <;> by_cases low : i < 30 <;> simp [above, low, Nat.not_le.2, Nat.le_of_not_lt]
  rw [PmpEntry.hits_napot mode]
  constructor
  · intro zero i above low
    have h := bit i (by omega)
    rw [zero] at h
    simpa [above, low] using h
  · intro same
    refine BitVec.eq_of_getLsbD_eq fun i hi => ?_
    rw [bit i hi]
    by_cases h : k < i ∧ i < 30
    · simp [same i h.1 h.2]
    · simp [h]

theorem napot_bits_iff_div (a addr : Word) (k : Nat) :
    (∀ i, k < i → i < 30 → a.getLsbD (i + 2) = addr.getLsbD i) ↔
      a.toNat / 2 ^ (k + 3) = addr.toNat % 2 ^ 30 / 2 ^ (k + 1) := by
  have bitLeft : ∀ j, (a.toNat / 2 ^ (k + 3)).testBit j = a.getLsbD (j + (k + 1) + 2) := fun j => by
    rw [Nat.testBit_div_two_pow, BitVec.testBit_toNat]
    rfl
  have bitRight : ∀ j, (addr.toNat % 2 ^ 30 / 2 ^ (k + 1)).testBit j =
      (decide (j + (k + 1) < 30) && addr.getLsbD (j + (k + 1))) := fun j => by
    rw [Nat.testBit_div_two_pow, Nat.testBit_mod_two_pow, BitVec.testBit_toNat]
  constructor
  · intro same
    refine Nat.eq_of_testBit_eq fun j => ?_
    rw [bitLeft, bitRight]
    by_cases low : j + (k + 1) < 30
    · rw [same _ (by omega) low, decide_eq_true low, Bool.true_and]
    · rw [BitVec.getLsbD_of_ge _ _ (by omega), decide_eq_false low, Bool.false_and]
  · intro same i above low
    have h := bitLeft (i - (k + 1))
    rw [same, bitRight, Nat.sub_add_cancel above, decide_eq_true low, Bool.true_and] at h
    exact h.symm

/-! ### The statement -/

theorem pmpEntry_below_succ (s : State) {i j : Fin 16} (next : j.val + 1 = i.val) :
    (s.pmpEntry i).below = s.pmp.addr[j.val] := by
  have positive : i.val ≠ 0 := by omega
  have pred : i.val - 1 = j.val := by omega
  simp only [State.pmpEntry, dif_neg positive, pred]

/-- Settles O47, mode by mode. -/
theorem pmpMatch : Obligations.PmpMatch := by
  refine ⟨fun e a => ⟨?off, ?tor, ?na4, ?napot⟩, fun s i => ⟨rfl, rfl, ?first, fun j => pmpEntry_below_succ s⟩⟩
  case off => exact fun mode => PmpEntry.hits_off mode a
  case tor =>
    intro mode
    have range : e.hits a = true ↔ 4 * (e.below.toNat % 2 ^ 30) ≤ a.toNat ∧ a.toNat < 4 * (e.addr.toNat % 2 ^ 30) := by
      rw [PmpEntry.hits_tor mode, BitVec.le_def, BitVec.lt_def, pmpBound_toNat, pmpBound_toNat]
    refine ⟨range, fun last => ?_⟩
    rw [← Bool.not_eq_true, range]
    rintro ⟨_, below⟩
    have high : 0xFFFFFFFC ≤ a.toNat := last
    omega
  case na4 =>
    intro mode
    rw [PmpEntry.hits_na4 mode, ← BitVec.toNat_inj, wordAddress_toNat, pmpBound_toNat]
    omega
  case napot =>
    intro mode k ones
    rw [napot_hits_iff_bits mode ones, napot_bits_iff_div]
  case first =>
    rintro rfl
    rfl

end Sys2Proof.Machine


/-! SUPPORT. Loads and stores of the device registers: each load and each store makes the one access its row names, and in
the TCIP region that access reaches a register or is refused (`DeviceAccesses`). -/

namespace Sys2Proof.Machine

/-! ### The access an instruction makes -/

/-- Each load is the shared load at its address and size, with the destination, extension and length of its result. -/
theorem exec_load {s : State} {i : Instr} {a : Word} {size : AccessSize} (h : loadAccess s i = some (a, size)) :
    ∃ rd f n, exec i s = load s rd a size f n ∧ ∀ v, loadResult v i = some (rd, f v, n) := by
  cases i <;> simp only [loadAccess, Option.some.injEq, Prod.mk.injEq, reduceCtorEq] at h
  all_goals
    obtain ⟨rfl, rfl⟩ := h
    exact ⟨_, _, _, rfl, fun _ => rfl⟩

/-- Each store is the shared store of its value at its address and size. -/
theorem exec_store {s : State} {i : Instr} {a v n : Word} {size : AccessSize}
    (h : storeAccess s i = some (a, size, v, n)) : exec i s = store s a size v n := by
  cases i <;> simp only [storeAccess, Option.some.injEq, Prod.mk.injEq, reduceCtorEq] at h
  all_goals
    obtain ⟨rfl, rfl, rfl, rfl⟩ := h
    rfl

/-! ### The access of a device register -/

/-- Natural alignment, as a remainder (20 R123). -/
theorem aligned_of_mod {a : Word} {size : AccessSize} (h : a.toNat % size.bytes = 0) : aligned a size = true := by
  cases size with
  | byte => rfl
  | half =>
    refine beq_iff_eq.2 (BitVec.eq_of_toNat_eq ?_)
    rw [BitVec.extractLsb'_toNat]
    exact h
  | word =>
    refine beq_iff_eq.2 (BitVec.eq_of_toNat_eq ?_)
    rw [BitVec.extractLsb'_toNat]
    exact h

section Device

variable {s : State} {a : Word} {size : AccessSize} (tcip : inTcip a = true) (mode : s.dataPriv = .machine)
  (align : aligned a size = true)

include tcip mode align

theorem load_device {v : Word} (allowed : s.pmpAllows .machine .load a = true) (read : s.tcipRead a size = some v)
    (rd : Reg) (f : Word → Word) (n : Word) : load s rd a size f n = setAdvance s rd (f v) n := by
  simp [load, State.memRead, align, mode, allowed, tcip, read]

theorem load_device_refused (allowed : s.pmpAllows .machine .load a = true) (read : s.tcipRead a size = none)
    (rd : Reg) (f : Word → Word) (n : Word) : load s rd a size f n = .refused .tcipAccess := by
  simp [load, State.memRead, align, mode, allowed, tcip, read]

theorem store_device {v : Word} {t : State} (allowed : s.pmpAllows .machine .store a = true)
    (write : s.tcipWrite a size v = some t) (n : Word) : store s a size v n = .next (t.advance n) := by
  simp [store, State.memWrite, align, mode, allowed, tcip, write]

theorem store_device_refused {v : Word} (allowed : s.pmpAllows .machine .store a = true)
    (write : s.tcipWrite a size v = none) (n : Word) : store s a size v n = .refused .tcipAccess := by
  simp [store, State.memWrite, align, mode, allowed, tcip, write]

end Device

/-- After the write of a device register the pc and the retired count go on from the old ones. -/
theorem advance_tcipWrite {s t : State} {a v : Word} {size : AccessSize} (h : s.tcipWrite a size v = some t) (n : Word) :
    t.advance n = { t with pc := s.pc + n, minstret := s.minstret + 1 } := by
  obtain ⟨r, _, rfl⟩ := Option.map_eq_some_iff.1 h
  obtain ⟨_, _, e⟩ := tcipStore_changes s r size v
  rw [e]
  rfl

/-- Settles O26: one argument for all loads and one for all stores. -/
theorem deviceAccesses : Obligations.DeviceAccesses := by
  intro s i a size tcip mode multiple
  have align := aligned_of_mod multiple
  refine ⟨fun isLoad allowed => ?loads, fun v n isStore allowed => ?stores⟩
  case loads =>
    obtain ⟨rd, f, n, exec, result⟩ := exec_load isLoad
    refine ⟨fun v w n' rd' read value => ?_, fun read => ?_⟩
    · rw [result v] at value
      cases value
      rw [Computes, exec, load_device tcip mode align allowed read]
      exact setAdvance_next s rd (f v) n
    · rw [exec]
      exact load_device_refused tcip mode align allowed read rd f n
  case stores =>
    rw [exec_store isStore]
    refine ⟨fun t write => ?_, fun write => store_device_refused tcip mode align allowed write n⟩
    rw [store_device tcip mode align allowed write n, advance_tcipWrite write n]

end Sys2Proof.Machine


/-! SUPPORT. The pieces of a code: what a field of an appended vector is, what contiguous fields join to, and for each
format that an assembled code has exactly the fields it was assembled from (30 R182 to R198). -/

namespace Sys2Proof.Machine

/-! ### Fields of appended vectors

The vectors are appended here by `BitVec.append`, whose width is the sum of the two widths: `simp` then finds these rules
in a code too, where `++` carries the width 16 or 32. -/

/-- Two contiguous fields make one. -/
theorem append_extract {n : Nat} (x : BitVec n) {s a t b : Nat} (h : t = s + b) :
    (x.extractLsb' t a).append (x.extractLsb' s b) = x.extractLsb' s (a + b) := by
  subst h
  rw [BitVec.append_eq]
  ext i hi
  simp only [BitVec.getElem_append, BitVec.getElem_extractLsb']
  split
  · rfl
  · congr 1; omega

/-- A field of a field. -/
theorem extract_extract {n : Nat} (x : BitVec n) {s len t m : Nat} (h : t + m ≤ len) :
    (x.extractLsb' s len).extractLsb' t m = x.extractLsb' (s + t) m := by
  ext i hi
  simp [show t + i < len by omega, Nat.add_assoc]

/-- The rules by which a field of a code is found: a field within the low part and one within the high part of an appended
vector, a field of a field, a vector appended from contiguous fields, and the whole vector. -/
theorem codeFields :
    (∀ {n m : Nat} (a : BitVec n) (b : BitVec m) {s len : Nat}, s + len ≤ m →
      (a.append b).extractLsb' s len = b.extractLsb' s len) ∧
    (∀ {n m : Nat} (a : BitVec n) (b : BitVec m) {s len : Nat}, m ≤ s →
      (a.append b).extractLsb' s len = a.extractLsb' (s - m) len) ∧
    (∀ {n : Nat} (x : BitVec n) {s len t m : Nat}, t + m ≤ len →
      (x.extractLsb' s len).extractLsb' t m = x.extractLsb' (s + t) m) ∧
    (∀ {n : Nat} (x : BitVec n) {s a t b : Nat}, t = s + b →
      (x.extractLsb' t a).append (x.extractLsb' s b) = x.extractLsb' s (a + b)) ∧
    ∀ {n : Nat} (a : BitVec n), a.extractLsb' 0 n = a :=
  ⟨fun a b => extract_append_low a b _ _, fun a b => extract_append_high a b _ _, extract_extract, append_extract,
    extract_all⟩

/-- A field is two given parts if its two parts are. -/
theorem extract_eq_append_iff {n : Nat} {x : BitVec n} {s t a b : Nat} (u : BitVec a) (v : BitVec b) (h : t = s + b) :
    x.extractLsb' s (a + b) = u ++ v ↔ x.extractLsb' t a = u ∧ x.extractLsb' s b = v := by
  constructor
  · intro e
    subst h
    constructor
    · rw [← extract_extract x (len := a + b) (by omega), e, extract_append_high _ _ _ _ le_rfl, Nat.sub_self, extract_all]
    · rw [← Nat.add_zero s, ← extract_extract x (len := a + b) (by omega), e, extract_append_low _ _ _ _ (by omega),
        extract_all]
  · rintro ⟨rfl, rfl⟩
    exact (append_extract x h).symm

theorem reg?_eq_some_iff {f : BitVec 5} {r : Reg} : reg? f = some r ↔ f = regBits r :=
  ⟨fun h => (regBits_of_reg? h).symm, fun h => h ▸ reg?_regBits r⟩

/-! ### The 32-bit formats -/

section
variable {w : Word} {op f7 : BitVec 7} {f3 : BitVec 3} {rd rs1 rs2 : Reg}

theorem encR_eq_iff : encR f7 f3 op rd rs1 rs2 = .c32 w ↔ opcodeField w = op ∧ rdField w = regBits rd ∧
    funct3Field w = f3 ∧ rs1Field w = regBits rs1 ∧ rs2Field w = regBits rs2 ∧ funct7Field w = f7 := by
  constructor
  · rintro ⟨⟩
    exact fields_r ..
  · rintro ⟨rfl, rd, rfl, rs1, rs2, rfl⟩
    rw [encR, ← rd, ← rs1, ← rs2, word_of_r]

theorem encI_eq_iff {imm : BitVec 12} : encI f3 op rd rs1 imm = .c32 w ↔ opcodeField w = op ∧ rdField w = regBits rd ∧
    funct3Field w = f3 ∧ rs1Field w = regBits rs1 ∧ immI w = imm := by
  constructor
  · rintro ⟨⟩
    exact fields_i ..
  · rintro ⟨rfl, rd, rfl, rs1, rfl⟩
    rw [encI, ← rd, ← rs1, word_of_i]

theorem encShift_eq_iff {k : BitVec 5} : encShift f7 f3 rd rs1 k = .c32 w ↔ opcodeField w = 0x13#7 ∧
    rdField w = regBits rd ∧ funct3Field w = f3 ∧ rs1Field w = regBits rs1 ∧ rs2Field w = k ∧ funct7Field w = f7 := by
  constructor
  · rintro ⟨⟩
    exact fields_r ..
  · rintro ⟨op, rd, rfl, rs1, rfl, rfl⟩
    rw [encShift, ← op, ← rd, ← rs1, word_of_r]

theorem encCsr_eq_iff {n : BitVec 12} {field : BitVec 5} : encCsr f3 rd n field = .c32 w ↔ opcodeField w = 0x73#7 ∧
    rdField w = regBits rd ∧ funct3Field w = f3 ∧ rs1Field w = field ∧ immI w = n := by
  constructor
  · rintro ⟨⟩
    exact fields_i ..
  · rintro ⟨op, rd, rfl, rfl, rfl⟩
    rw [encCsr, ← op, ← rd, word_of_i]

theorem encU_eq_iff {imm : BitVec 20} : encU op rd imm = .c32 w ↔
    opcodeField w = op ∧ rdField w = regBits rd ∧ immU w = imm := by
  constructor
  · rintro ⟨⟩
    exact fields_u ..
  · rintro ⟨rfl, rd, rfl⟩
    rw [encU, ← rd, word_of_u]

theorem encS_eq_iff {imm : BitVec 12} : encS f3 rs2 rs1 imm = .c32 w ↔ opcodeField w = 0x23#7 ∧ funct3Field w = f3 ∧
    rs1Field w = regBits rs1 ∧ rs2Field w = regBits rs2 ∧ immS w = imm := by
  constructor
  · rintro ⟨⟩
    exact fields_s ..
  · rintro ⟨op, rfl, rs1, rs2, rfl⟩
    simp (disch := decide) only [encS, ← op, ← rs1, ← rs2, opcodeField, funct3Field, rs1Field, rs2Field, immS,
      HAppend.hAppend, codeFields, Nat.reduceSub, Nat.reduceAdd]

theorem encB_eq_iff {imm : BitVec 12} : encB f3 rs1 rs2 imm = .c32 w ↔ opcodeField w = 0x63#7 ∧ funct3Field w = f3 ∧
    rs1Field w = regBits rs1 ∧ rs2Field w = regBits rs2 ∧ immB w = imm := by
  constructor
  · rintro ⟨⟩
    simp (disch := decide) only [opcodeField, funct3Field, rs1Field, rs2Field, immB, HAppend.hAppend, codeFields,
      Nat.reduceSub, Nat.reduceAdd, and_self]
  · rintro ⟨op, rfl, rs1, rs2, rfl⟩
    simp (disch := decide) only [encB, ← op, ← rs1, ← rs2, opcodeField, funct3Field, rs1Field, rs2Field, immB,
      HAppend.hAppend, codeFields, Nat.reduceSub, Nat.reduceAdd]

theorem encJ_eq_iff {imm : BitVec 20} : encJ rd imm = .c32 w ↔
    opcodeField w = 0x6F#7 ∧ rdField w = regBits rd ∧ immJ w = imm := by
  constructor
  · rintro ⟨⟩
    simp (disch := decide) only [opcodeField, rdField, immJ, HAppend.hAppend, codeFields, Nat.reduceSub,
      Nat.reduceAdd, and_self]
  · rintro ⟨op, rd, rfl⟩
    simp (disch := decide) only [encJ, ← op, ← rd, opcodeField, rdField, immJ, HAppend.hAppend, codeFields,
      Nat.reduceSub, Nat.reduceAdd]

end

/-! ### Masked words -/

/-- A field of a masked word that the mask keeps. -/
theorem extract_of_mask {w m v : Word} (h : w &&& m = v) {s len : Nat} (kept : m.extractLsb' s len = BitVec.allOnes len) :
    w.extractLsb' s len = v.extractLsb' s len := by
  rw [← h, BitVec.extractLsb'_and, kept, BitVec.and_allOnes]

theorem encode_fence_eq_iff {w : Word} {pred succ : BitVec 4} : encode (.fence pred succ) = .c32 w ↔
    w &&& 0xF00FFFFF#32 = 0x0000000F#32 ∧ w.extractLsb' 24 4 = pred ∧ w.extractLsb' 20 4 = succ := by
  constructor
  · rintro ⟨⟩
    refine ⟨?_, ?_⟩
    · change (0#4 ++ pred ++ succ ++ 0x0000F#20) &&& (0xF#4 ++ 0#4 ++ 0#4 ++ 0xFFFFF#20) = 0#4 ++ 0#4 ++ 0#4 ++ 0xF#20
      simp only [BitVec.and_append, BitVec.and_zero]
      rfl
    · simp (disch := decide) only [HAppend.hAppend, codeFields, Nat.reduceSub, Nat.reduceAdd, and_self]
  · rintro ⟨fixed, rfl, rfl⟩
    have low : w.extractLsb' 0 20 = 0x0000F#20 := extract_of_mask fixed rfl
    have high : w.extractLsb' 28 4 = 0#4 := extract_of_mask fixed rfl
    simp (disch := decide) only [encode, ← low, ← high, HAppend.hAppend, codeFields, Nat.reduceAdd]

theorem encode_icacheIpa_eq_iff {w : Word} {rs1 : Reg} : encode (.icacheIpa rs1) = .c32 w ↔
    w &&& 0xFFF07FFF#32 = 0x0380000B#32 ∧ rs1Field w = regBits rs1 := by
  constructor
  · rintro ⟨⟩
    refine ⟨?_, ?_⟩
    · change (0x038#12 ++ regBits rs1 ++ 0x000B#15) &&& (0xFFF#12 ++ 0#5 ++ 0x7FFF#15) = 0x038#12 ++ 0#5 ++ 0x000B#15
      simp only [BitVec.and_append, BitVec.and_zero]
      rfl
    · simp (disch := decide) only [rs1Field, HAppend.hAppend, codeFields, Nat.reduceSub, Nat.reduceAdd]
  · rintro ⟨fixed, rs1⟩
    have low : w.extractLsb' 0 15 = 0x000B#15 := extract_of_mask fixed rfl
    have high : w.extractLsb' 20 12 = 0x038#12 := extract_of_mask fixed rfl
    simp (disch := decide) only [encode, ← low, ← high, ← rs1, rs1Field, HAppend.hAppend, codeFields, Nat.reduceAdd]

/-! ### The 16-bit formats -/

section
variable {h : Half} {op : BitVec 2} {f3 : BitVec 3} {rd rs2 : Reg}

theorem encCi_eq_iff {imm : BitVec 6} : encCi f3 op rd imm = .c16 h ↔
    quadrantField h = op ∧ cFunct3Field h = f3 ∧ cRdField h = regBits rd ∧ immCi h = imm := by
  constructor
  · rintro ⟨⟩
    simp (disch := decide) only [quadrantField, cFunct3Field, cRdField, immCi, HAppend.hAppend, codeFields,
      Nat.reduceSub, Nat.reduceAdd, and_self]
  · rintro ⟨rfl, rfl, rd, rfl⟩
    simp (disch := decide) only [encCi, ← rd, quadrantField, cFunct3Field, cRdField, immCi, HAppend.hAppend,
      codeFields, Nat.reduceSub, Nat.reduceAdd]

theorem encCl_eq_iff {low high : CReg} {imm : BitVec 5} : encCl f3 low high imm = .c16 h ↔ quadrantField h = 0#2 ∧
    cFunct3Field h = f3 ∧ cLowRegField h = cRegBits low ∧ cHighRegField h = cRegBits high ∧ immClw h = imm := by
  constructor
  · rintro ⟨⟩
    simp (disch := decide) only [quadrantField, cFunct3Field, cLowRegField, cHighRegField, immClw, HAppend.hAppend,
      codeFields, Nat.reduceSub, Nat.reduceAdd, and_self]
  · rintro ⟨op, rfl, low, high, rfl⟩
    simp (disch := decide) only [encCl, ← op, ← low, ← high, quadrantField, cFunct3Field, cLowRegField, cHighRegField,
      immClw, HAppend.hAppend, codeFields, Nat.reduceSub, Nat.reduceAdd]

/-- The 6-bit immediate is bit 12 and the low field. -/
theorem immCi_eq_iff {imm : BitVec 6} :
    immCi h = imm ↔ bit12Field h = imm.extractLsb' 5 1 ∧ cRs2Field h = imm.extractLsb' 0 5 := by
  constructor
  · rintro rfl
    simp (disch := decide) only [immCi, bit12Field, cRs2Field, HAppend.hAppend, codeFields, Nat.reduceSub, and_self]
  · rintro ⟨high, low⟩
    rw [bit12Field] at high
    rw [cRs2Field] at low
    simp (disch := decide) only [immCi, high, low, HAppend.hAppend, codeFields, Nat.reduceAdd]

theorem encCbAlu_eq_iff {b12 : BitVec 1} {f2 : BitVec 2} {rd : CReg} {low : BitVec 5} : encCbAlu b12 f2 rd low = .c16 h ↔
    quadrantField h = 1#2 ∧ cFunct3Field h = 4#3 ∧ bit12Field h = b12 ∧ h.extractLsb' 10 2 = f2 ∧
    cHighRegField h = cRegBits rd ∧ cRs2Field h = low := by
  constructor
  · rintro ⟨⟩
    simp (disch := decide) only [quadrantField, cFunct3Field, bit12Field, cHighRegField, cRs2Field, HAppend.hAppend,
      codeFields, Nat.reduceSub, Nat.reduceAdd, and_self]
  · rintro ⟨op, f3, rfl, rfl, rd, rfl⟩
    simp (disch := decide) only [encCbAlu, ← op, ← f3, ← rd, quadrantField, cFunct3Field, bit12Field, cHighRegField,
      cRs2Field, HAppend.hAppend, codeFields, Nat.reduceAdd]

theorem encCa_eq_iff {f2 : BitVec 2} {rd rs2 : CReg} : encCa f2 rd rs2 = .c16 h ↔ quadrantField h = 1#2 ∧
    cFunct3Field h = 4#3 ∧ bit12Field h = 0#1 ∧ h.extractLsb' 10 2 = 3#2 ∧ h.extractLsb' 5 2 = f2 ∧
    cHighRegField h = cRegBits rd ∧ cLowRegField h = cRegBits rs2 := by
  rw [encCa, show 0x23#6 = 4#3 ++ 0#1 ++ 3#2 from rfl]
  constructor
  · rintro ⟨⟩
    simp (disch := decide) only [quadrantField, cFunct3Field, bit12Field, cHighRegField, cLowRegField,
      HAppend.hAppend, codeFields, Nat.reduceSub, Nat.reduceAdd, and_self]
  · rintro ⟨op, f3, b12, kind, rfl, rd, rs2⟩
    simp (disch := decide) only [← op, ← f3, ← b12, ← kind, ← rd, ← rs2, quadrantField, cFunct3Field, bit12Field,
      cHighRegField, cLowRegField, HAppend.hAppend, codeFields, Nat.reduceAdd]

theorem encCb_eq_iff {rs1 : CReg} {imm : BitVec 8} : encCb f3 rs1 imm = .c16 h ↔ quadrantField h = 1#2 ∧
    cFunct3Field h = f3 ∧ cHighRegField h = cRegBits rs1 ∧ immCb h = imm := by
  constructor
  · rintro ⟨⟩
    simp (disch := decide) only [quadrantField, cFunct3Field, cHighRegField, immCb, HAppend.hAppend, codeFields,
      Nat.reduceSub, Nat.reduceAdd, and_self]
  · rintro ⟨op, rfl, rs1, rfl⟩
    simp (disch := decide) only [encCb, ← op, ← rs1, quadrantField, cFunct3Field, cHighRegField, immCb,
      HAppend.hAppend, codeFields, Nat.reduceSub, Nat.reduceAdd]

theorem encCj_eq_iff {imm : BitVec 11} : encCj f3 imm = .c16 h ↔
    quadrantField h = 1#2 ∧ cFunct3Field h = f3 ∧ immCj h = imm := by
  constructor
  · rintro ⟨⟩
    simp (disch := decide) only [quadrantField, cFunct3Field, immCj, HAppend.hAppend, codeFields, Nat.reduceSub,
      Nat.reduceAdd, and_self]
  · rintro ⟨op, rfl, rfl⟩
    simp (disch := decide) only [encCj, ← op, quadrantField, cFunct3Field, immCj, HAppend.hAppend, codeFields,
      Nat.reduceSub, Nat.reduceAdd]

/-- CR with its four high bits as funct3 and bit 12. -/
theorem encCr_eq_iff {b12 : BitVec 1} : encCr (f3 ++ b12) rd rs2 = .c16 h ↔ quadrantField h = 2#2 ∧
    cFunct3Field h = f3 ∧ bit12Field h = b12 ∧ cRdField h = regBits rd ∧ cRs2Field h = regBits rs2 := by
  constructor
  · rintro ⟨⟩
    simp (disch := decide) only [quadrantField, cFunct3Field, bit12Field, cRdField, cRs2Field, HAppend.hAppend,
      codeFields, Nat.reduceSub, Nat.reduceAdd, and_self]
  · rintro ⟨op, rfl, rfl, rd, rs2⟩
    simp (disch := decide) only [encCr, ← op, ← rd, ← rs2, quadrantField, cFunct3Field, bit12Field, cRdField,
      cRs2Field, HAppend.hAppend, codeFields, Nat.reduceAdd]

theorem encCr_8_eq_iff : encCr 8#4 rd rs2 = .c16 h ↔ quadrantField h = 2#2 ∧ cFunct3Field h = 4#3 ∧
    bit12Field h = 0#1 ∧ cRdField h = regBits rd ∧ cRs2Field h = regBits rs2 :=
  encCr_eq_iff (f3 := 4#3) (b12 := 0#1)

theorem encCr_9_eq_iff : encCr 9#4 rd rs2 = .c16 h ↔ quadrantField h = 2#2 ∧ cFunct3Field h = 4#3 ∧
    bit12Field h = 1#1 ∧ cRdField h = regBits rd ∧ cRs2Field h = regBits rs2 :=
  encCr_eq_iff (f3 := 4#3) (b12 := 1#1)

theorem encode_cSlli_eq_iff {k : BitVec 5} : encode (.cSlli rd k) = .c16 h ↔ quadrantField h = 2#2 ∧
    cFunct3Field h = 0#3 ∧ bit12Field h = 0#1 ∧ cRdField h = regBits rd ∧ cRs2Field h = k := by
  rw [encode, show 0#4 = 0#3 ++ 0#1 from rfl]
  constructor
  · rintro ⟨⟩
    simp (disch := decide) only [quadrantField, cFunct3Field, bit12Field, cRdField, cRs2Field, HAppend.hAppend,
      codeFields, Nat.reduceSub, Nat.reduceAdd, and_self]
  · rintro ⟨op, f3, b12, rd, rfl⟩
    simp (disch := decide) only [← op, ← f3, ← b12, ← rd, quadrantField, cFunct3Field, bit12Field, cRdField,
      cRs2Field, HAppend.hAppend, codeFields, Nat.reduceAdd]

theorem encode_cAddi4spn_eq_iff {rd : CReg} {imm : BitVec 8} : encode (.cAddi4spn rd imm) = .c16 h ↔
    quadrantField h = 0#2 ∧ cFunct3Field h = 0#3 ∧ cLowRegField h = cRegBits rd ∧ immAddi4spn h = imm := by
  constructor
  · rintro ⟨⟩
    simp (disch := decide) only [quadrantField, cFunct3Field, cLowRegField, immAddi4spn, HAppend.hAppend, codeFields,
      Nat.reduceSub, Nat.reduceAdd, and_self]
  · rintro ⟨op, f3, rd, rfl⟩
    simp (disch := decide) only [encode, ← op, ← f3, ← rd, quadrantField, cFunct3Field, cLowRegField, immAddi4spn,
      HAppend.hAppend, codeFields, Nat.reduceSub, Nat.reduceAdd]

theorem encode_cAddi16sp_eq_iff {imm : BitVec 6} : encode (.cAddi16sp imm) = .c16 h ↔
    quadrantField h = 1#2 ∧ cFunct3Field h = 3#3 ∧ cRdField h = 2#5 ∧ immAddi16sp h = imm := by
  constructor
  · rintro ⟨⟩
    simp (disch := decide) only [quadrantField, cFunct3Field, cRdField, immAddi16sp, HAppend.hAppend, codeFields,
      Nat.reduceSub, Nat.reduceAdd, and_self]
  · rintro ⟨op, f3, rd, rfl⟩
    simp (disch := decide) only [encode, ← op, ← f3, ← rd, quadrantField, cFunct3Field, cRdField, immAddi16sp,
      HAppend.hAppend, codeFields, Nat.reduceSub, Nat.reduceAdd]

theorem encode_cLwsp_eq_iff {imm : BitVec 6} : encode (.cLwsp rd imm) = .c16 h ↔
    quadrantField h = 2#2 ∧ cFunct3Field h = 2#3 ∧ cRdField h = regBits rd ∧ immClwsp h = imm := by
  constructor
  · rintro ⟨⟩
    simp (disch := decide) only [quadrantField, cFunct3Field, cRdField, immClwsp, HAppend.hAppend, codeFields,
      Nat.reduceSub, Nat.reduceAdd, and_self]
  · rintro ⟨op, f3, rd, rfl⟩
    simp (disch := decide) only [encode, ← op, ← f3, ← rd, quadrantField, cFunct3Field, cRdField, immClwsp,
      HAppend.hAppend, codeFields, Nat.reduceSub, Nat.reduceAdd]

theorem encode_cSwsp_eq_iff {imm : BitVec 6} : encode (.cSwsp rs2 imm) = .c16 h ↔
    quadrantField h = 2#2 ∧ cFunct3Field h = 6#3 ∧ cRs2Field h = regBits rs2 ∧ immCswsp h = imm := by
  constructor
  · rintro ⟨⟩
    simp (disch := decide) only [quadrantField, cFunct3Field, cRs2Field, immCswsp, HAppend.hAppend, codeFields,
      Nat.reduceSub, Nat.reduceAdd, and_self]
  · rintro ⟨op, f3, rs2, rfl⟩
    simp (disch := decide) only [encode, ← op, ← f3, ← rs2, quadrantField, cFunct3Field, cRs2Field, immCswsp,
      HAppend.hAppend, codeFields, Nat.reduceSub, Nat.reduceAdd]

/-! ### Fields of a halfword side by side, as the table of 30 R202 names them -/

section
variable {a : BitVec 3} {b c : BitVec 1} {d : BitVec 5} {q : BitVec 2}

theorem bits_15_11_iff : h.extractLsb' 11 5 = a ++ b ++ c ↔
    cFunct3Field h = a ∧ bit12Field h = b ∧ h.extractLsb' 11 1 = c :=
  (extract_eq_append_iff (a ++ b) c rfl).trans ((and_congr_left' (extract_eq_append_iff a b rfl)).trans and_assoc)

theorem bits_6_0_iff : h.extractLsb' 0 7 = d ++ q ↔ cRs2Field h = d ∧ quadrantField h = q :=
  extract_eq_append_iff d q rfl

theorem bits_15_7_iff : h.extractLsb' 7 9 = a ++ b ++ d ↔ cFunct3Field h = a ∧ bit12Field h = b ∧ cRdField h = d :=
  (extract_eq_append_iff (a ++ b) d rfl).trans ((and_congr_left' (extract_eq_append_iff a b rfl)).trans and_assoc)

theorem bits_15_6_iff : h.extractLsb' 6 10 = a ++ b ++ d ++ c ↔
    (cFunct3Field h = a ∧ bit12Field h = b ∧ cRdField h = d) ∧ h.extractLsb' 6 1 = c :=
  (extract_eq_append_iff (a ++ b ++ d) c rfl).trans (and_congr_left' bits_15_7_iff)

/-- The whole immediate of C.ADDI4SPN is 0 if the field it is scattered over is. -/
theorem immAddi4spn_eq_zero_iff : immAddi4spn h = 0#8 ↔ h.extractLsb' 5 8 = 0#8 := by
  constructor
  · intro zero
    have field : h.extractLsb' 5 8 = (immAddi4spn h).extractLsb' 2 2 ++ (immAddi4spn h).extractLsb' 4 4 ++
        (immAddi4spn h).extractLsb' 0 1 ++ (immAddi4spn h).extractLsb' 1 1 := by
      simp (disch := decide) only [immAddi4spn, HAppend.hAppend, codeFields, Nat.reduceSub, Nat.reduceAdd]
    rw [field, zero]
    rfl
  · intro zero
    have pieces : immAddi4spn h = (h.extractLsb' 5 8).extractLsb' 2 4 ++ (h.extractLsb' 5 8).extractLsb' 6 2 ++
        (h.extractLsb' 5 8).extractLsb' 0 1 ++ (h.extractLsb' 5 8).extractLsb' 1 1 := by
      simp (disch := decide) only [immAddi4spn, HAppend.hAppend, codeFields, Nat.reduceAdd]
    rw [pieces, zero]
    rfl

/-- C.ADDI16SP and C.LUI scatter their immediates over the same bits. -/
theorem immAddi16sp_eq_zero_iff : immAddi16sp h = 0#6 ↔ immCi h = 0#6 := by
  constructor
  · intro zero
    have field : immCi h = (immAddi16sp h).extractLsb' 5 1 ++ ((immAddi16sp h).extractLsb' 0 1 ++
        (immAddi16sp h).extractLsb' 2 1 ++ (immAddi16sp h).extractLsb' 3 2 ++ (immAddi16sp h).extractLsb' 1 1) := by
      simp (disch := decide) only [immCi, immAddi16sp, HAppend.hAppend, codeFields, Nat.reduceSub, Nat.reduceAdd]
    rw [field, zero]
    rfl
  · intro zero
    have pieces : immAddi16sp h = (immCi h).extractLsb' 5 1 ++ (immCi h).extractLsb' 1 2 ++ (immCi h).extractLsb' 3 1 ++
        (immCi h).extractLsb' 0 1 ++ (immCi h).extractLsb' 4 1 := by
      simp (disch := decide) only [immCi, immAddi16sp, HAppend.hAppend, codeFields, Nat.reduceSub, Nat.reduceAdd]
    rw [pieces, zero]
    rfl

end

end

end Sys2Proof.Machine


/-! SUPPORT. The 32-bit instructions: what each kind of row answers, and with it both directions of the round trip between
`decode32` and `encode`. -/

namespace Sys2Proof.Machine

/-! ### The rows

For each format: an assembled word has its fixed fields and its row answers the instruction of its operands; and if a row
answers an instruction for a word with the instruction's fixed fields, the word is that instruction's code. -/

section
variable {w : Word} {op f7 : BitVec 7} {f3 : BitVec 3} {rd rs1 rs2 : Reg} {imm : BitVec 12} {k : BitVec 5} {n : BitVec 20}
  {i : Instr}

theorem rRow_of_enc (e : encR f7 f3 op rd rs1 rs2 = .c32 w) : opcodeField w = op ∧ funct3Field w = f3 ∧
    funct7Field w = f7 ∧ ∀ f, rRow f w = some (f rd rs1 rs2) := by
  obtain ⟨op, rd, f3, rs1, rs2, f7⟩ := encR_eq_iff.1 e
  exact ⟨op, f3, f7, fun f => by simp [rRow, rd, rs1, rs2]⟩

theorem encode_of_rRow {f : Reg → Reg → Reg → Instr} (code : ∀ rd rs1 rs2, encode (f rd rs1 rs2) = encR f7 f3 op rd rs1 rs2)
    (hop : opcodeField w = op) (hf3 : funct3Field w = f3) (hf7 : funct7Field w = f7) (h : rRow f w = some i) :
    encode i = .c32 w := by
  unfold rRow at h
  split at h
  · next rd rs1 rs2 hrd hrs1 hrs2 =>
    rw [reg?_eq_some_iff] at hrd hrs1 hrs2
    rw [← Option.some.inj h, code]
    exact encR_eq_iff.2 ⟨hop, hrd, hf3, hrs1, hrs2, hf7⟩
  · cases h

theorem iRow_of_enc (e : encI f3 op rd rs1 imm = .c32 w) : opcodeField w = op ∧ funct3Field w = f3 ∧
    ∀ f, iRow f w = some (f rd rs1 imm) := by
  obtain ⟨op, rd, f3, rs1, rfl⟩ := encI_eq_iff.1 e
  exact ⟨op, f3, fun f => by simp [iRow, rd, rs1]⟩

theorem encode_of_iRow {f : Reg → Reg → BitVec 12 → Instr}
    (code : ∀ rd rs1 imm, encode (f rd rs1 imm) = encI f3 op rd rs1 imm)
    (hop : opcodeField w = op) (hf3 : funct3Field w = f3) (h : iRow f w = some i) : encode i = .c32 w := by
  unfold iRow at h
  split at h
  · next rd rs1 hrd hrs1 =>
    rw [reg?_eq_some_iff] at hrd hrs1
    rw [← Option.some.inj h, code]
    exact encI_eq_iff.2 ⟨hop, hrd, hf3, hrs1, rfl⟩
  · cases h

theorem shiftRow_of_enc (e : encShift f7 f3 rd rs1 k = .c32 w) : opcodeField w = 0x13#7 ∧ funct3Field w = f3 ∧
    funct7Field w = f7 ∧ ∀ f, shiftRow f w = some (f rd rs1 k) := by
  obtain ⟨op, rd, f3, rs1, rfl, f7⟩ := encShift_eq_iff.1 e
  exact ⟨op, f3, f7, fun f => by simp [shiftRow, rd, rs1]⟩

theorem encode_of_shiftRow {f : Reg → Reg → BitVec 5 → Instr}
    (code : ∀ rd rs1 k, encode (f rd rs1 k) = encShift f7 f3 rd rs1 k)
    (hop : opcodeField w = 0x13#7) (hf3 : funct3Field w = f3) (hf7 : funct7Field w = f7) (h : shiftRow f w = some i) :
    encode i = .c32 w := by
  unfold shiftRow at h
  split at h
  · next rd rs1 hrd hrs1 =>
    rw [reg?_eq_some_iff] at hrd hrs1
    rw [← Option.some.inj h, code]
    exact encShift_eq_iff.2 ⟨hop, hrd, hf3, hrs1, rfl, hf7⟩
  · cases h

theorem sRow_of_enc (e : encS f3 rs2 rs1 imm = .c32 w) : opcodeField w = 0x23#7 ∧ funct3Field w = f3 ∧
    ∀ f, sRow f w = some (f rs2 rs1 imm) := by
  obtain ⟨op, f3, rs1, rs2, rfl⟩ := encS_eq_iff.1 e
  exact ⟨op, f3, fun f => by simp [sRow, rs1, rs2]⟩

theorem encode_of_sRow {f : Reg → Reg → BitVec 12 → Instr} (code : ∀ rs2 rs1 imm, encode (f rs2 rs1 imm) = encS f3 rs2 rs1 imm)
    (hop : opcodeField w = 0x23#7) (hf3 : funct3Field w = f3) (h : sRow f w = some i) : encode i = .c32 w := by
  unfold sRow at h
  split at h
  · next rs2 rs1 hrs2 hrs1 =>
    rw [reg?_eq_some_iff] at hrs2 hrs1
    rw [← Option.some.inj h, code]
    exact encS_eq_iff.2 ⟨hop, hf3, hrs1, hrs2, rfl⟩
  · cases h

theorem bRow_of_enc (e : encB f3 rs1 rs2 imm = .c32 w) : opcodeField w = 0x63#7 ∧ funct3Field w = f3 ∧
    ∀ f, bRow f w = some (f rs1 rs2 imm) := by
  obtain ⟨op, f3, rs1, rs2, rfl⟩ := encB_eq_iff.1 e
  exact ⟨op, f3, fun f => by simp [bRow, rs1, rs2]⟩

theorem encode_of_bRow {f : Reg → Reg → BitVec 12 → Instr} (code : ∀ rs1 rs2 imm, encode (f rs1 rs2 imm) = encB f3 rs1 rs2 imm)
    (hop : opcodeField w = 0x63#7) (hf3 : funct3Field w = f3) (h : bRow f w = some i) : encode i = .c32 w := by
  unfold bRow at h
  split at h
  · next rs1 rs2 hrs1 hrs2 =>
    rw [reg?_eq_some_iff] at hrs1 hrs2
    rw [← Option.some.inj h, code]
    exact encB_eq_iff.2 ⟨hop, hf3, hrs1, hrs2, rfl⟩
  · cases h

theorem uRow_of_enc (e : encU op rd n = .c32 w) : opcodeField w = op ∧ ∀ f, uRow f w = some (f rd n) := by
  obtain ⟨op, rd, rfl⟩ := encU_eq_iff.1 e
  exact ⟨op, fun f => by simp [uRow, rd]⟩

theorem encode_of_uRow {f : Reg → BitVec 20 → Instr} (code : ∀ rd n, encode (f rd n) = encU op rd n)
    (hop : opcodeField w = op) (h : uRow f w = some i) : encode i = .c32 w := by
  obtain ⟨rd, hrd, rfl⟩ := Option.map_eq_some_iff.1 h
  rw [code]
  exact encU_eq_iff.2 ⟨hop, reg?_eq_some_iff.1 hrd, rfl⟩

theorem jRow_of_enc (e : encJ rd n = .c32 w) : opcodeField w = 0x6F#7 ∧ ∀ f, jRow f w = some (f rd n) := by
  obtain ⟨op, rd, rfl⟩ := encJ_eq_iff.1 e
  exact ⟨op, fun f => by simp [jRow, rd]⟩

theorem encode_of_jRow {f : Reg → BitVec 20 → Instr} (code : ∀ rd n, encode (f rd n) = encJ rd n)
    (hop : opcodeField w = 0x6F#7) (h : jRow f w = some i) : encode i = .c32 w := by
  obtain ⟨rd, hrd, rfl⟩ := Option.map_eq_some_iff.1 h
  rw [code]
  exact encJ_eq_iff.2 ⟨hop, reg?_eq_some_iff.1 hrd, rfl⟩

theorem csrRow_of_enc (e : encCsr f3 rd imm (regBits rs1) = .c32 w) : opcodeField w = 0x73#7 ∧ funct3Field w = f3 ∧
    ∀ f, csrRow f w = some (f rd imm rs1) := by
  obtain ⟨op, rd, f3, rs1, rfl⟩ := encCsr_eq_iff.1 e
  exact ⟨op, f3, fun f => by simp [csrRow, rd, rs1]⟩

theorem encode_of_csrRow {f : Reg → BitVec 12 → Reg → Instr}
    (code : ∀ rd n rs1, encode (f rd n rs1) = encCsr f3 rd n (regBits rs1))
    (hop : opcodeField w = 0x73#7) (hf3 : funct3Field w = f3) (h : csrRow f w = some i) : encode i = .c32 w := by
  unfold csrRow at h
  split at h
  · next rd rs1 hrd hrs1 =>
    rw [reg?_eq_some_iff] at hrd hrs1
    rw [← Option.some.inj h, code]
    exact encCsr_eq_iff.2 ⟨hop, hrd, hf3, hrs1, rfl⟩
  · cases h

theorem csrImmRow_of_enc (e : encCsr f3 rd imm k = .c32 w) : opcodeField w = 0x73#7 ∧ funct3Field w = f3 ∧
    ∀ f, csrImmRow f w = some (f rd imm k) := by
  obtain ⟨op, rd, f3, rfl, rfl⟩ := encCsr_eq_iff.1 e
  exact ⟨op, f3, fun f => by simp [csrImmRow, rd]⟩

theorem encode_of_csrImmRow {f : Reg → BitVec 12 → BitVec 5 → Instr} (code : ∀ rd n k, encode (f rd n k) = encCsr f3 rd n k)
    (hop : opcodeField w = 0x73#7) (hf3 : funct3Field w = f3) (h : csrImmRow f w = some i) : encode i = .c32 w := by
  obtain ⟨rd, hrd, rfl⟩ := Option.map_eq_some_iff.1 h
  rw [code]
  exact encCsr_eq_iff.2 ⟨hop, reg?_eq_some_iff.1 hrd, hf3, rfl, rfl⟩

end

/-! ### From the instruction to its word -/

/-- Every 32-bit instruction is what its word decodes to; those of the M family where the core has the multiplier. -/
theorem decode32_of_encode {i : Instr} {w : Word} {hasM : Bool} (e : encode i = .c32 w)
    (m : i.needsM = true → hasM = true) : decode32 hasM w = some i := by
  cases i
  case lui rd n | auipc rd n =>
    obtain ⟨op, row⟩ := uRow_of_enc e
    simp [decode32, op, row]
  case jal rd n =>
    obtain ⟨op, row⟩ := jRow_of_enc e
    simp [decode32, op, row]
  case jalr rd rs1 imm =>
    obtain ⟨op, f3, row⟩ := iRow_of_enc e
    simp [decode32, op, f3, row]
  case beq rs1 rs2 imm | bne rs1 rs2 imm | blt rs1 rs2 imm | bge rs1 rs2 imm | bltu rs1 rs2 imm | bgeu rs1 rs2 imm =>
    obtain ⟨op, f3, row⟩ := bRow_of_enc e
    simp [decode32, op, branchRow, f3, row]
  case lb rd rs1 imm | lh rd rs1 imm | lw rd rs1 imm | lbu rd rs1 imm | lhu rd rs1 imm =>
    obtain ⟨op, f3, row⟩ := iRow_of_enc e
    simp [decode32, op, loadRow, f3, row]
  case sb rs2 rs1 imm | sh rs2 rs1 imm | sw rs2 rs1 imm =>
    obtain ⟨op, f3, row⟩ := sRow_of_enc e
    simp [decode32, op, storeRow, f3, row]
  case addi rd rs1 imm | slti rd rs1 imm | sltiu rd rs1 imm | xori rd rs1 imm | ori rd rs1 imm | andi rd rs1 imm =>
    obtain ⟨op, f3, row⟩ := iRow_of_enc e
    simp [decode32, op, immRow, f3, row]
  case slli rd rs1 k | srli rd rs1 k | srai rd rs1 k =>
    obtain ⟨op, f3, f7, row⟩ := shiftRow_of_enc e
    simp [decode32, op, immRow, f3, f7, row]
  case add rd rs1 rs2 | sll rd rs1 rs2 | slt rd rs1 rs2 | sltu rd rs1 rs2 | xor rd rs1 rs2 | srl rd rs1 rs2 |
      or rd rs1 rs2 | and rd rs1 rs2 =>
    obtain ⟨op, f3, f7, row⟩ := rRow_of_enc e
    simp [decode32, op, regRow, f7, baseRow, f3, row]
  case sub rd rs1 rs2 | sra rd rs1 rs2 =>
    obtain ⟨op, f3, f7, row⟩ := rRow_of_enc e
    simp [decode32, op, regRow, f7, f3, row]
  case mul rd rs1 rs2 | mulh rd rs1 rs2 | mulhsu rd rs1 rs2 | mulhu rd rs1 rs2 | div rd rs1 rs2 | divu rd rs1 rs2 |
      rem rd rs1 rs2 | remu rd rs1 rs2 =>
    obtain ⟨op, f3, f7, row⟩ := rRow_of_enc e
    simp [decode32, op, regRow, f7, mulDivRow, mRow, m rfl, f3, row]
  case fence pred succ =>
    obtain ⟨fixed, pred, succ⟩ := encode_fence_eq_iff.1 e
    have op : opcodeField w = 0x0F#7 := extract_of_mask fixed rfl
    have notFenceI : w ≠ 0x0000100F#32 := fun h => by rw [h] at fixed; exact absurd fixed (by decide)
    simp [decode32, op, fenceRow, notFenceI, fixed, pred, succ]
  case csrrw rd n rs1 | csrrs rd n rs1 | csrrc rd n rs1 =>
    obtain ⟨op, f3, row⟩ := csrRow_of_enc e
    simp [decode32, op, systemRow, f3, row]
  case csrrwi rd n k | csrrsi rd n k | csrrci rd n k =>
    obtain ⟨op, f3, row⟩ := csrImmRow_of_enc e
    simp [decode32, op, systemRow, f3, row]
  case icacheIpa rs1 =>
    obtain ⟨fixed, rs1⟩ := encode_icacheIpa_eq_iff.1 e
    have op : opcodeField w = 0x0B#7 := extract_of_mask fixed rfl
    have notIall : w ≠ 0x0100000B#32 := fun h => by rw [h] at fixed; exact absurd fixed (by decide)
    simp [decode32, op, theadRow, notIall, fixed, rs1]
  case fenceI | ecall | ebreak | mret | wfi | icacheIall => cases e; rfl
  all_goals cases e

/-! ### From the word to its instruction -/

section
variable {w : Word} {i : Instr} {hasM : Bool}

theorem funct3_cases (f : BitVec 3) :
    f = 0#3 ∨ f = 1#3 ∨ f = 2#3 ∨ f = 3#3 ∨ f = 4#3 ∨ f = 5#3 ∨ f = 6#3 ∨ f = 7#3 := by
  revert f; decide

theorem encode_of_branchRow (op : opcodeField w = 0x63#7) (h : branchRow w = some i) : encode i = .c32 w := by
  unfold branchRow at h
  split_ifs at h with f3 f3 f3 f3 f3 f3
  all_goals exact encode_of_bRow (fun _ _ _ => rfl) op f3 h

theorem encode_of_loadRow (op : opcodeField w = 0x03#7) (h : loadRow w = some i) : encode i = .c32 w := by
  unfold loadRow at h
  split_ifs at h with f3 f3 f3 f3 f3
  all_goals exact encode_of_iRow (fun _ _ _ => rfl) op f3 h

theorem encode_of_storeRow (op : opcodeField w = 0x23#7) (h : storeRow w = some i) : encode i = .c32 w := by
  unfold storeRow at h
  split_ifs at h with f3 f3 f3
  all_goals exact encode_of_sRow (fun _ _ _ => rfl) op f3 h

theorem encode_of_immRow (op : opcodeField w = 0x13#7) (h : immRow w = some i) : encode i = .c32 w := by
  rcases funct3_cases (funct3Field w) with f3 | f3 | f3 | f3 | f3 | f3 | f3 | f3 <;>
    simp only [immRow, f3, BitVec.reduceEq, reduceIte] at h
  case inr.inl =>
    split_ifs at h with f7
    exact encode_of_shiftRow (fun _ _ _ => rfl) op f3 f7 h
  case inr.inr.inr.inr.inr.inl =>
    split_ifs at h with f7 f7
    all_goals exact encode_of_shiftRow (fun _ _ _ => rfl) op f3 f7 h
  all_goals exact encode_of_iRow (fun _ _ _ => rfl) op f3 h

theorem encode_of_baseRow (op : opcodeField w = 0x33#7) (f7 : funct7Field w = 0#7) (h : baseRow w = some i) :
    encode i = .c32 w := by
  rcases funct3_cases (funct3Field w) with f3 | f3 | f3 | f3 | f3 | f3 | f3 | f3 <;>
    simp only [baseRow, f3, BitVec.reduceEq, reduceIte] at h <;>
    exact encode_of_rRow (fun _ _ _ => rfl) op f3 f7 h

theorem rRow_of_mRow {f : Reg → Reg → Reg → Instr} (h : mRow hasM f w = some i) : rRow f w = some i := by
  unfold mRow at h
  split_ifs at h
  exact h

theorem encode_of_mulDivRow (op : opcodeField w = 0x33#7) (f7 : funct7Field w = 1#7) (h : mulDivRow hasM w = some i) :
    encode i = .c32 w := by
  rcases funct3_cases (funct3Field w) with f3 | f3 | f3 | f3 | f3 | f3 | f3 | f3 <;>
    simp only [mulDivRow, f3, BitVec.reduceEq, reduceIte] at h <;>
    exact encode_of_rRow (fun _ _ _ => rfl) op f3 f7 (rRow_of_mRow h)

theorem encode_of_regRow (op : opcodeField w = 0x33#7) (h : regRow hasM w = some i) : encode i = .c32 w := by
  unfold regRow at h
  split_ifs at h with f7 f7 f7 f3 f3
  · exact encode_of_baseRow op f7 h
  · exact encode_of_mulDivRow op f7 h
  · exact encode_of_rRow (fun _ _ _ => rfl) op f3 f7 h
  · exact encode_of_rRow (fun _ _ _ => rfl) op f3 f7 h

theorem encode_of_fenceRow (h : fenceRow w = some i) : encode i = .c32 w := by
  unfold fenceRow at h
  split_ifs at h with fenceI fixed
  · cases h; rw [fenceI]; rfl
  · cases h; exact encode_fence_eq_iff.2 ⟨fixed, rfl, rfl⟩

theorem encode_of_fixedWord (f3 : funct3Field w = 0#3 ∨ funct3Field w = 4#3) (h : systemRow w = some i) :
    encode i = .c32 w := by
  rcases f3 with f3 | f3 <;> simp only [systemRow, f3, BitVec.reduceEq, reduceIte] at h
  all_goals split_ifs at h with word word word word <;> cases h <;> rw [word] <;> rfl

theorem encode_of_systemRow (op : opcodeField w = 0x73#7) (h : systemRow w = some i) : encode i = .c32 w := by
  rcases funct3_cases (funct3Field w) with f3 | f3 | f3 | f3 | f3 | f3 | f3 | f3
  case inl => exact encode_of_fixedWord (.inl f3) h
  case inr.inr.inr.inr.inl => exact encode_of_fixedWord (.inr f3) h
  all_goals simp only [systemRow, f3, BitVec.reduceEq, reduceIte] at h
  case inr.inl | inr.inr.inl | inr.inr.inr.inl => exact encode_of_csrRow (fun _ _ _ => rfl) op f3 h
  all_goals exact encode_of_csrImmRow (fun _ _ _ => rfl) op f3 h

theorem encode_of_theadRow (h : theadRow w = some i) : encode i = .c32 w := by
  unfold theadRow at h
  split_ifs at h with iall fixed
  · cases h; rw [iall]; rfl
  · obtain ⟨rs1, hrs1, rfl⟩ := Option.map_eq_some_iff.1 h
    exact encode_icacheIpa_eq_iff.2 ⟨fixed, reg?_eq_some_iff.1 hrs1⟩

/-- A word that decodes to an instruction is that instruction's code. -/
theorem encode_of_decode32 (h : decode32 hasM w = some i) : encode i = .c32 w := by
  unfold decode32 at h
  rcases ite_eq_iff.1 h with ⟨op, h⟩ | ⟨_, h⟩
  · exact encode_of_uRow (fun _ _ => rfl) op h
  rcases ite_eq_iff.1 h with ⟨op, h⟩ | ⟨_, h⟩
  · exact encode_of_uRow (fun _ _ => rfl) op h
  rcases ite_eq_iff.1 h with ⟨op, h⟩ | ⟨_, h⟩
  · exact encode_of_jRow (fun _ _ => rfl) op h
  rcases ite_eq_iff.1 h with ⟨op, h⟩ | ⟨_, h⟩
  · obtain ⟨f3, h⟩ | ⟨_, h⟩ := ite_eq_iff.1 h
    · exact encode_of_iRow (fun _ _ _ => rfl) op f3 h
    · cases h
  rcases ite_eq_iff.1 h with ⟨op, h⟩ | ⟨_, h⟩
  · exact encode_of_branchRow op h
  rcases ite_eq_iff.1 h with ⟨op, h⟩ | ⟨_, h⟩
  · exact encode_of_loadRow op h
  rcases ite_eq_iff.1 h with ⟨op, h⟩ | ⟨_, h⟩
  · exact encode_of_storeRow op h
  rcases ite_eq_iff.1 h with ⟨op, h⟩ | ⟨_, h⟩
  · exact encode_of_immRow op h
  rcases ite_eq_iff.1 h with ⟨op, h⟩ | ⟨_, h⟩
  · exact encode_of_regRow op h
  rcases ite_eq_iff.1 h with ⟨_, h⟩ | ⟨_, h⟩
  · exact encode_of_fenceRow h
  rcases ite_eq_iff.1 h with ⟨op, h⟩ | ⟨_, h⟩
  · exact encode_of_systemRow op h
  rcases ite_eq_iff.1 h with ⟨_, h⟩ | ⟨_, h⟩
  · exact encode_of_theadRow h
  cases h

end

end Sys2Proof.Machine


/-! SUPPORT. The 16-bit instructions: both directions of the round trip between `parse16` and `encode`, and what a row that is
reserved or breaks its constraint says of the halfword (30 R202). -/

namespace Sys2Proof.Machine

/-! ### Which fields name a register -/

theorem high_bit_eq_zero_iff {f : BitVec 5} : f.extractLsb' 4 1 = 0#1 ↔ ∃ r, f = regBits r := by
  revert f; decide

section
variable {h : Half}

/-- The 5-bit field names a register just where bit 11 is 0 (30 R197). -/
theorem bit11_eq_zero_iff : h.extractLsb' 11 1 = 0#1 ↔ ∃ rd, cRdField h = regBits rd := by
  rw [← high_bit_eq_zero_iff, cRdField, extract_extract h (by decide)]

theorem bit6_eq_zero_iff : h.extractLsb' 6 1 = 0#1 ↔ ∃ rs2, cRs2Field h = regBits rs2 := by
  rw [← high_bit_eq_zero_iff, cRs2Field, extract_extract h (by decide)]

/-- The two shifts among the four kinds of quadrant 01, funct3 100. -/
theorem bit11_eq_zero_iff_kind : h.extractLsb' 11 1 = 0#1 ↔ h.extractLsb' 10 2 = 0#2 ∨ h.extractLsb' 10 2 = 1#2 := by
  have kinds : ∀ v : BitVec 2, v.extractLsb' 1 1 = 0#1 ↔ v = 0#2 ∨ v = 1#2 := by decide
  rw [← kinds, extract_extract h (by decide)]

end

/-! ### From the instruction to its halfword -/

/-- The halfword of a well-formed compressed instruction has the instruction's row. -/
theorem parse16_of_encode {i : Instr} {h : Half} (e : encode i = .c16 h) (wf : i.wellFormed = true) :
    parse16 h = some (.row i) := by
  cases i
  case cAddi4spn rd imm =>
    obtain ⟨q, f3, low, imm⟩ := encode_cAddi4spn_eq_iff.1 e
    have nonzero : h ≠ 0#16 := by
      rintro rfl
      subst imm
      cases wf
    simp_all [parse16, quadrant0, Instr.wellFormed]
  case cLw rd rs1 imm | cSw rs2 rs1 imm =>
    obtain ⟨q, f3, low, high, imm⟩ := encCl_eq_iff.1 e
    simp [parse16, q, quadrant0, f3, low, high, imm]
  case cNop => cases e; rfl
  case cAddi rd imm | cLi rd imm | cLui rd imm =>
    obtain ⟨q, f3, rd, imm⟩ := encCi_eq_iff.1 e
    simp_all [parse16, quadrant1, Instr.wellFormed]
  case cAddi16sp imm =>
    obtain ⟨q, f3, rd, imm⟩ := encode_cAddi16sp_eq_iff.1 e
    have sp : reg? 2#5 = some 2 := rfl
    simp_all [parse16, quadrant1, Instr.wellFormed]
  case cJal imm | cJ imm =>
    obtain ⟨q, f3, imm⟩ := encCj_eq_iff.1 e
    simp [parse16, q, quadrant1, f3, imm]
  case cSrli rd k | cSrai rd k =>
    obtain ⟨q, f3, b12, kind, rd, k⟩ := encCbAlu_eq_iff.1 e
    simp [parse16, q, quadrant1, f3, quadrant1Alu, kind, b12, rd, k]
  case cAndi rd imm =>
    obtain ⟨q, f3, b12, kind, rd, low⟩ := encCbAlu_eq_iff.1 e
    simp [parse16, q, quadrant1, f3, quadrant1Alu, kind, rd, immCi_eq_iff.2 ⟨b12, low⟩]
  case cSub rd rs2 | cXor rd rs2 | cOr rd rs2 | cAnd rd rs2 =>
    obtain ⟨q, f3, b12, kind, f2, rd, rs2⟩ := encCa_eq_iff.1 e
    simp [parse16, q, quadrant1, f3, quadrant1Alu, kind, b12, f2, rd, rs2]
  case cBeqz rs1 imm | cBnez rs1 imm =>
    obtain ⟨q, f3, rs1, imm⟩ := encCb_eq_iff.1 e
    simp [parse16, q, quadrant1, f3, rs1, imm]
  case cSlli rd k =>
    obtain ⟨q, f3, b12, rd, k⟩ := encode_cSlli_eq_iff.1 e
    simp [parse16, q, quadrant2, f3, b12, rd, k]
  case cLwsp rd imm =>
    obtain ⟨q, f3, rd, imm⟩ := encode_cLwsp_eq_iff.1 e
    simp_all [parse16, quadrant2, Instr.wellFormed]
  case cSwsp rs2 imm =>
    obtain ⟨q, f3, rs2, imm⟩ := encode_cSwsp_eq_iff.1 e
    simp [parse16, q, quadrant2, f3, rs2, imm]
  case cJr rs1 | cMv rd rs2 =>
    obtain ⟨q, f3, b12, rd, rs2⟩ := encCr_8_eq_iff.1 e
    simp_all [parse16, quadrant2, quadrant2Cr, Instr.wellFormed]
  case cJalr rs1 | cAdd rd rs2 =>
    obtain ⟨q, f3, b12, rd, rs2⟩ := encCr_9_eq_iff.1 e
    simp_all [parse16, quadrant2, quadrant2Cr, Instr.wellFormed]
  case cEbreak => cases e; rfl
  all_goals cases e

/-! ### Values left over by a table of alternatives -/

theorem two_bits_eq_three {v : BitVec 2} (h0 : ¬ v = 0#2) (h1 : ¬ v = 1#2) (h2 : ¬ v = 2#2) : v = 3#2 := by
  bv_omega

theorem bit_eq_zero {v : BitVec 1} (h : ¬ v = 1#1) : v = 0#1 := v.eq_zero_or_eq_one.resolve_right h

theorem bit_eq_one {v : BitVec 1} (h : ¬ v = 0#1) : v = 1#1 := v.eq_zero_or_eq_one.resolve_left h

/-! ### What the row of a halfword says of it -/

/-- A compressed instruction whose operands make its operation one that changes nothing: it writes x0, or writes back the
value its register has. -/
def idles : Instr → Prop
  | .cAddi rd imm => rd = 0 ∨ imm = 0
  | .cLi rd _ | .cLui rd _ | .cMv rd _ | .cAdd rd _ => rd = 0
  | .cSrli _ k | .cSrai _ k => k = 0
  | .cSlli rd k => rd = 0 ∨ k = 0
  | _ => False

/-- What a halfword's row says of the halfword: it is the code of the row's instruction, which is well formed or the idle
instruction of a HINT form; or it is a reserved form. -/
def RowFits (h : Half) : Row16 → Prop
  | .row i => encode i = .c16 h ∧ (i.wellFormed = false → idles i ∧ hintForm h)
  | .reserved => reservedForm h

section
variable {h : Half} {r : Row16}

theorem rowFits_of_wellFormed {i : Instr} (e : encode i = .c16 h) (wf : i.wellFormed = true) : RowFits h (.row i) :=
  ⟨e, fun bad => absurd (wf.symm.trans bad) (by decide)⟩

theorem rowFits_quadrant0 (q : quadrantField h = 0#2) (e : quadrant0 h = some r) : RowFits h r := by
  unfold quadrant0 at e
  split_ifs at e with f3 nonzero imm f3 f3 <;> cases e
  · exact .inl ⟨nonzero, (extract_eq_append_iff 0#3 0#8 rfl).2 ⟨f3, immAddi4spn_eq_zero_iff.1 imm⟩, q⟩
  · exact rowFits_of_wellFormed (encode_cAddi4spn_eq_iff.2 ⟨q, f3, by simp, rfl⟩) (by simpa [Instr.wellFormed] using imm)
  · exact rowFits_of_wellFormed (encCl_eq_iff.2 ⟨q, f3, by simp, by simp, rfl⟩) rfl
  · exact rowFits_of_wellFormed (encCl_eq_iff.2 ⟨q, f3, by simp, by simp, rfl⟩) rfl

theorem rowFits_quadrant1Alu (q : quadrantField h = 1#2) (f3 : cFunct3Field h = 4#3) (e : quadrant1Alu h = some r) :
    RowFits h r := by
  have reservedShift (b12 : ¬ bit12Field h = 0#1) (kind : h.extractLsb' 10 2 = 0#2 ∨ h.extractLsb' 10 2 = 1#2) :
      reservedForm h :=
    .inr (.inr (.inl ⟨bits_15_11_iff.2 ⟨f3, bit_eq_one b12, bit11_eq_zero_iff_kind.2 kind⟩, q⟩))
  have hintShift (b12 : bit12Field h = 0#1) (kind : h.extractLsb' 10 2 = 0#2 ∨ h.extractLsb' 10 2 = 1#2)
      (k : cRs2Field h = 0#5) : hintForm h :=
    .inr (.inr (.inr (.inr (.inl ⟨bits_15_11_iff.2 ⟨f3, b12, bit11_eq_zero_iff_kind.2 kind⟩, bits_6_0_iff.2 ⟨k, q⟩⟩))))
  have registers {f2 : BitVec 2} (k0 : ¬ h.extractLsb' 10 2 = 0#2) (k1 : ¬ h.extractLsb' 10 2 = 1#2)
      (k2 : ¬ h.extractLsb' 10 2 = 2#2) (b12 : ¬ bit12Field h = 1#1) (hf2 : h.extractLsb' 5 2 = f2) :
      encCa f2 (cReg (cHighRegField h)) (cReg (cLowRegField h)) = .c16 h :=
    encCa_eq_iff.2 ⟨q, f3, bit_eq_zero b12, two_bits_eq_three k0 k1 k2, hf2, by simp, by simp⟩
  unfold quadrant1Alu at e
  split_ifs at e with k0 b12 k1 b12 k2 b12 f0 f1 f2 <;> cases e
  · refine ⟨encCbAlu_eq_iff.2 ⟨q, f3, b12, k0, by simp, rfl⟩, fun bad => ?_⟩
    have k : cRs2Field h = 0#5 := by simpa [Instr.wellFormed] using bad
    exact ⟨k, hintShift b12 (.inl k0) k⟩
  · exact reservedShift b12 (.inl k0)
  · refine ⟨encCbAlu_eq_iff.2 ⟨q, f3, b12, k1, by simp, rfl⟩, fun bad => ?_⟩
    have k : cRs2Field h = 0#5 := by simpa [Instr.wellFormed] using bad
    exact ⟨k, hintShift b12 (.inr k1) k⟩
  · exact reservedShift b12 (.inr k1)
  · exact rowFits_of_wellFormed
      (encCbAlu_eq_iff.2 ⟨q, f3, (immCi_eq_iff.1 rfl).1, k2, by simp, (immCi_eq_iff.1 rfl).2⟩) rfl
  · exact rowFits_of_wellFormed (registers k0 k1 k2 b12 f0) rfl
  · exact rowFits_of_wellFormed (registers k0 k1 k2 b12 f1) rfl
  · exact rowFits_of_wellFormed (registers k0 k1 k2 b12 f2) rfl
  · exact rowFits_of_wellFormed (registers k0 k1 k2 b12 (two_bits_eq_three f0 f1 f2)) rfl

/-- Quadrant 01, funct3 000. -/
theorem rowFits_addi {rd : Reg} (q : quadrantField h = 1#2) (f3 : cFunct3Field h = 0#3) (hrd : cRdField h = regBits rd)
    (notNop : ¬ (rd = 0 ∧ immCi h = 0#6)) : RowFits h (.row (.cAddi rd (immCi h))) := by
  refine ⟨encCi_eq_iff.2 ⟨q, f3, hrd, rfl⟩, fun bad => ?_⟩
  have operands : rd = 0 ∨ immCi h = 0#6 := by
    simpa [Instr.wellFormed, or_iff_not_imp_left] using bad
  have notOne : h ≠ 1 := by
    rintro rfl
    exact notNop ⟨Option.some.inj ((reg?_eq_some_iff.2 hrd).symm.trans rfl), rfl⟩
  refine ⟨operands, ?_⟩
  rcases operands with rfl | imm
  · exact .inl ⟨f3, hrd, q, notOne⟩
  · obtain ⟨b12, low⟩ := immCi_eq_iff.1 imm
    exact .inr (.inl ⟨bits_15_11_iff.2 ⟨f3, b12, bit11_eq_zero_iff.2 ⟨rd, hrd⟩⟩, bits_6_0_iff.2 ⟨low, q⟩, notOne⟩)

/-- Quadrant 01, funct3 011, with the immediate 0: for C.LUI and for C.ADDI16SP. -/
theorem reservedForm_lui {rd : Reg} (q : quadrantField h = 1#2) (f3 : cFunct3Field h = 3#3) (hrd : cRdField h = regBits rd)
    (imm : immCi h = 0#6) : reservedForm h := by
  obtain ⟨b12, low⟩ := immCi_eq_iff.1 imm
  exact .inr (.inl ⟨bits_15_11_iff.2 ⟨f3, b12, bit11_eq_zero_iff.2 ⟨rd, hrd⟩⟩, bits_6_0_iff.2 ⟨low, q⟩⟩)

theorem rowFits_lui {rd : Reg} (q : quadrantField h = 1#2) (f3 : cFunct3Field h = 3#3) (hrd : cRdField h = regBits rd)
    (notSp : ¬ rd = 2) (imm : ¬ immCi h = 0#6) : RowFits h (.row (.cLui rd (immCi h))) := by
  refine ⟨encCi_eq_iff.2 ⟨q, f3, hrd, rfl⟩, fun bad => ?_⟩
  have zero : rd = 0 := by simpa [Instr.wellFormed, notSp, imm] using bad
  subst zero
  exact ⟨rfl, .inr (.inr (.inr (.inl ⟨f3, hrd, q, by rintro rfl; exact imm rfl⟩)))⟩

theorem rowFits_quadrant1 (q : quadrantField h = 1#2) (e : quadrant1 h = some r) : RowFits h r := by
  rcases funct3_cases (cFunct3Field h) with f3 | f3 | f3 | f3 | f3 | f3 | f3 | f3 <;>
    simp only [quadrant1, f3, BitVec.reduceEq, reduceIte] at e
  · split at e
    · cases e
    · next rd hrd =>
      rw [reg?_eq_some_iff] at hrd
      split_ifs at e with nop <;> cases e
      · obtain ⟨rfl, imm⟩ := nop
        exact rowFits_of_wellFormed ((encCi_eq_iff (rd := 0)).2 ⟨q, f3, hrd, imm⟩) rfl
      · exact rowFits_addi q f3 hrd nop
  · cases e
    exact rowFits_of_wellFormed (encCj_eq_iff.2 ⟨q, f3, rfl⟩) rfl
  · split at e
    · cases e
    · next rd hrd =>
      rw [reg?_eq_some_iff] at hrd
      cases e
      refine ⟨encCi_eq_iff.2 ⟨q, f3, hrd, rfl⟩, fun bad => ?_⟩
      have zero : rd = 0 := by simpa [Instr.wellFormed] using bad
      subst zero
      exact ⟨rfl, .inr (.inr (.inl ⟨f3, hrd, q⟩))⟩
  · split at e
    · cases e
    · next rd hrd =>
      rw [reg?_eq_some_iff] at hrd
      split_ifs at e with sp imm imm <;> cases e
      · exact reservedForm_lui q f3 hrd (immAddi16sp_eq_zero_iff.1 imm)
      · subst sp
        exact rowFits_of_wellFormed (encode_cAddi16sp_eq_iff.2 ⟨q, f3, hrd, rfl⟩) (by simpa [Instr.wellFormed] using imm)
      · exact reservedForm_lui q f3 hrd imm
      · exact rowFits_lui q f3 hrd sp imm
  · exact rowFits_quadrant1Alu q f3 e
  · cases e
    exact rowFits_of_wellFormed (encCj_eq_iff.2 ⟨q, f3, rfl⟩) rfl
  · cases e
    exact rowFits_of_wellFormed (encCb_eq_iff.2 ⟨q, f3, by simp, rfl⟩) rfl
  · cases e
    exact rowFits_of_wellFormed (encCb_eq_iff.2 ⟨q, f3, by simp, rfl⟩) rfl

theorem rowFits_quadrant2Cr (q : quadrantField h = 2#2) (f3 : cFunct3Field h = 4#3) (e : quadrant2Cr h = some r) :
    RowFits h r := by
  unfold quadrant2Cr at e
  split at e
  case h_2 => cases e
  next rd rs2 hrd hrs2 =>
  rw [reg?_eq_some_iff] at hrd hrs2
  have code8 (b12 : bit12Field h = 0#1) : encCr 8#4 rd rs2 = .c16 h := encCr_8_eq_iff.2 ⟨q, f3, b12, hrd, hrs2⟩
  have code9 (b12 : ¬ bit12Field h = 0#1) : encCr 9#4 rd rs2 = .c16 h :=
    encCr_9_eq_iff.2 ⟨q, f3, bit_eq_one b12, hrd, hrs2⟩
  split_ifs at e with b12 zero2 zero zero2 zero <;> cases e
  · subst zero2 zero
    have word : 0x8002 = (8#4 ++ regBits 0 ++ regBits 0 ++ 2#2 : Half) := by decide
    exact .inr (.inr (.inr (.inr (.inr (word.trans (Code.c16.inj (code8 b12))).symm))))
  · subst zero2
    exact rowFits_of_wellFormed (code8 b12) (by simpa [Instr.wellFormed] using zero)
  · refine ⟨code8 b12, fun bad => ?_⟩
    have zero : rd = 0 := by simpa [Instr.wellFormed, zero2] using bad
    subst zero
    exact ⟨rfl, .inr (.inr (.inr (.inr (.inr (.inr (.inr (.inl
      ⟨bits_15_6_iff.2 ⟨⟨f3, b12, hrd⟩, bit6_eq_zero_iff.2 ⟨rs2, hrs2⟩⟩, q, by
        rintro rfl
        exact zero2 (Option.some.inj ((reg?_eq_some_iff.2 hrs2).symm.trans rfl))⟩)))))))⟩
  · subst zero2 zero
    exact rowFits_of_wellFormed (code9 b12) rfl
  · subst zero2
    exact rowFits_of_wellFormed (code9 b12) (by simpa [Instr.wellFormed] using zero)
  · refine ⟨code9 b12, fun bad => ?_⟩
    have zero : rd = 0 := by simpa [Instr.wellFormed, zero2] using bad
    subst zero
    exact ⟨rfl, .inr (.inr (.inr (.inr (.inr (.inr (.inr (.inr
      ⟨bits_15_6_iff.2 ⟨⟨f3, bit_eq_one b12, hrd⟩, bit6_eq_zero_iff.2 ⟨rs2, hrs2⟩⟩, q, by
        rintro rfl
        exact zero2 (Option.some.inj ((reg?_eq_some_iff.2 hrs2).symm.trans rfl))⟩)))))))⟩

theorem rowFits_slli {rd : Reg} (q : quadrantField h = 2#2) (f3 : cFunct3Field h = 0#3) (b12 : bit12Field h = 0#1)
    (hrd : cRdField h = regBits rd) : RowFits h (.row (.cSlli rd (cRs2Field h))) := by
  refine ⟨encode_cSlli_eq_iff.2 ⟨q, f3, b12, hrd, rfl⟩, fun bad => ?_⟩
  have operands : rd = 0 ∨ cRs2Field h = 0#5 := by
    simpa [Instr.wellFormed, or_iff_not_imp_left] using bad
  refine ⟨operands, ?_⟩
  rcases operands with rfl | k
  · exact .inr (.inr (.inr (.inr (.inr (.inl ⟨bits_15_7_iff.2 ⟨f3, b12, hrd⟩, q⟩)))))
  · exact .inr (.inr (.inr (.inr (.inr (.inr (.inl
      ⟨bits_15_11_iff.2 ⟨f3, b12, bit11_eq_zero_iff.2 ⟨rd, hrd⟩⟩, bits_6_0_iff.2 ⟨k, q⟩⟩))))))

theorem rowFits_quadrant2 (q : quadrantField h = 2#2) (e : quadrant2 h = some r) : RowFits h r := by
  unfold quadrant2 at e
  rcases ite_eq_iff.1 e with ⟨f3, e⟩ | ⟨_, e⟩
  · split at e
    · cases e
    · next rd hrd =>
      rw [reg?_eq_some_iff] at hrd
      split_ifs at e with b12 <;> cases e
      · exact rowFits_slli q f3 b12 hrd
      · exact .inr (.inr (.inr (.inl ⟨bits_15_11_iff.2 ⟨f3, bit_eq_one b12, bit11_eq_zero_iff.2 ⟨rd, hrd⟩⟩, q⟩)))
  rcases ite_eq_iff.1 e with ⟨f3, e⟩ | ⟨_, e⟩
  · split at e
    · cases e
    · next rd hrd =>
      rw [reg?_eq_some_iff] at hrd
      split_ifs at e with zero <;> cases e
      · subst zero
        exact .inr (.inr (.inr (.inr (.inl ⟨f3, hrd, q⟩))))
      · exact rowFits_of_wellFormed (encode_cLwsp_eq_iff.2 ⟨q, f3, hrd, rfl⟩) (by simpa [Instr.wellFormed] using zero)
  rcases ite_eq_iff.1 e with ⟨f3, e⟩ | ⟨_, e⟩
  · exact rowFits_quadrant2Cr q f3 e
  rcases ite_eq_iff.1 e with ⟨f3, e⟩ | ⟨_, e⟩
  · split at e
    · cases e
    · next rs2 hrs2 =>
      rw [reg?_eq_some_iff] at hrs2
      cases e
      exact rowFits_of_wellFormed (encode_cSwsp_eq_iff.2 ⟨q, f3, hrs2, rfl⟩) rfl
  · cases e

/-- Every row of the map fits its halfword. -/
theorem rowFits_parse16 (e : parse16 h = some r) : RowFits h r := by
  unfold parse16 at e
  rcases ite_eq_iff.1 e with ⟨q, e⟩ | ⟨_, e⟩
  · exact rowFits_quadrant0 q e
  rcases ite_eq_iff.1 e with ⟨q, e⟩ | ⟨_, e⟩
  · exact rowFits_quadrant1 q e
  rcases ite_eq_iff.1 e with ⟨q, e⟩ | ⟨_, e⟩
  · exact rowFits_quadrant2 q e
  · cases e

end

end Sys2Proof.Machine


/-! SUPPORT. The statements about the decoder and the encoder: the round trip (`DecodeOfEncode`, `EncodeOfDecode`) and the
codes that are illegal (`UnnamedHalfwordsIllegal`, `UpperRegisterFieldsIllegal`, `MultiplierAbsent`,
`FenceAndFixedWordsExact`). -/

namespace Sys2Proof.Machine

/-! ### The two decoders -/

section
variable {c : Config} {w : Word} {v : RvcViolation} {h : Half} {i : Instr}

theorem decodeCode_c32_eq_instr_iff : decodeCode c (.c32 w) = .instr i ↔ decode32 c.hasM w = some i := by
  cases row : decode32 c.hasM w <;> simp [decodeCode, row]

theorem decodeCode_c32_eq_illegal_iff : decodeCode c (.c32 w) = .illegal ↔ decode32 c.hasM w = none := by
  cases row : decode32 c.hasM w <;> simp [decodeCode, row]

theorem decode16_of_row (row : parse16 h = some (.row i)) (wf : i.wellFormed = true) : decode16 v h = .instr i := by
  simp [decode16, row, wf]

theorem decode16_of_none (row : parse16 h = none) : decode16 v h = .illegal := by
  simp [decode16, row]

/-- What a halfword decodes to is its row's instruction. -/
theorem parse16_of_decode16 (d : decode16 v h = .instr i) : parse16 h = some (.row i) := by
  unfold decode16 at d
  split at d
  · cases d
  · split_ifs at d
  · next j row =>
    split_ifs at d with wf
    · rw [row, DecodeResult.instr.inj d]
    · cases v <;> cases d
      exact row

end

/-! ### The round trip -/

/-- Settles O1: a 32-bit code has the fields of its row, a 16-bit code those of its quadrant's row. -/
theorem decodeOfEncode : Obligations.DecodeOfEncode := by
  intro c i wf m
  cases e : encode i with
  | c16 h => exact decode16_of_row (parse16_of_encode e wf) wf
  | c32 w => exact decodeCode_c32_eq_instr_iff.2 (decode32_of_encode e m)

/-- Settles O2: each row gives back the code whose fields it read. -/
theorem encodeOfDecode : Obligations.EncodeOfDecode := by
  intro c code i d
  cases code with
  | c16 h => exact (rowFits_parse16 (parse16_of_decode16 d)).1
  | c32 w => exact encode_of_decode32 (decodeCode_c32_eq_instr_iff.1 d)

/-! ### Codes without a row -/

/-- Settles O4: none of these halfwords has a row. -/
theorem unnamedHalfwordsIllegal : Obligations.UnnamedHalfwordsIllegal := by
  intro c h named
  refine decode16_of_none (v := c.rvcViolation) ?_
  rcases named with rfl | ⟨q, f3⟩ | ⟨q, f3, kind, b12⟩ | ⟨q, f3⟩
  · rfl
  · rcases f3 with f3 | f3 | f3 | f3 | f3 <;> simp [parse16, quadrantField, q, quadrant0, cFunct3Field, f3]
  · have one : h.extractLsb' 12 1 = 1#1 := by
      ext i hi
      simpa [Nat.lt_one_iff.1 hi] using b12
    simp [parse16, quadrantField, q, quadrant1, cFunct3Field, f3, quadrant1Alu, kind, bit12Field, one]
  · rcases f3 with f3 | f3 | f3 | f3 <;> simp [parse16, quadrantField, q, quadrant2, cFunct3Field, f3]

section
variable {w : Word} {hasM : Bool}

theorem rRow_eq_none (upper : ((rdField w).getLsbD 4 || (rs1Field w).getLsbD 4 || (rs2Field w).getLsbD 4) = true)
    (f : Reg → Reg → Reg → Instr) : rRow f w = none := by
  simp only [Bool.or_eq_true, ← reg?_eq_none] at upper
  rcases upper with (none | none) | none <;> simp [rRow, none]

theorem iRow_eq_none (upper : ((rdField w).getLsbD 4 || (rs1Field w).getLsbD 4) = true)
    (f : Reg → Reg → BitVec 12 → Instr) : iRow f w = none := by
  simp only [Bool.or_eq_true, ← reg?_eq_none] at upper
  rcases upper with none | none <;> simp [iRow, none]

theorem shiftRow_eq_none (upper : ((rdField w).getLsbD 4 || (rs1Field w).getLsbD 4) = true)
    (f : Reg → Reg → BitVec 5 → Instr) : shiftRow f w = none := by
  simp only [Bool.or_eq_true, ← reg?_eq_none] at upper
  rcases upper with none | none <;> simp [shiftRow, none]

theorem csrRow_eq_none (upper : ((rdField w).getLsbD 4 || (rs1Field w).getLsbD 4) = true)
    (f : Reg → BitVec 12 → Reg → Instr) : csrRow f w = none := by
  simp only [Bool.or_eq_true, ← reg?_eq_none] at upper
  rcases upper with none | none <;> simp [csrRow, none]

theorem sRow_eq_none (upper : ((rs1Field w).getLsbD 4 || (rs2Field w).getLsbD 4) = true)
    (f : Reg → Reg → BitVec 12 → Instr) : sRow f w = none := by
  simp only [Bool.or_eq_true, ← reg?_eq_none] at upper
  rcases upper with none | none <;> simp [sRow, none]

theorem bRow_eq_none (upper : ((rs1Field w).getLsbD 4 || (rs2Field w).getLsbD 4) = true)
    (f : Reg → Reg → BitVec 12 → Instr) : bRow f w = none := by
  simp only [Bool.or_eq_true, ← reg?_eq_none] at upper
  rcases upper with none | none <;> simp [bRow, none]

end

/-- Settles O5, format by format: a row answers none where one of its register fields names no register. -/
theorem upperRegisterFieldsIllegal : Obligations.UpperRegisterFieldsIllegal := by
  refine fun c => ⟨fun w upper => decodeCode_c32_eq_illegal_iff.2 ?_, fun h upper => decode16_of_none ?_⟩
  · rcases upper with ⟨op, upper⟩ | ⟨op | op | op, upper⟩ | ⟨op | op, upper⟩ | ⟨op | op | op, upper⟩ | ⟨op, f3, upper⟩ |
      ⟨op, f3, upper⟩ | ⟨op, upper⟩
    · simp [decode32, op, regRow, baseRow, mulDivRow, mRow, rRow_eq_none upper]
    · simp [decode32, op, immRow, iRow_eq_none upper, shiftRow_eq_none upper]
    · simp [decode32, op, loadRow, iRow_eq_none upper]
    · simp [decode32, op, iRow_eq_none upper]
    · simp [decode32, op, storeRow, sRow_eq_none upper]
    · simp [decode32, op, branchRow, bRow_eq_none upper]
    · simp [decode32, op, uRow, reg?_eq_none.2 upper]
    · simp [decode32, op, uRow, reg?_eq_none.2 upper]
    · simp [decode32, op, jRow, reg?_eq_none.2 upper]
    · rcases f3 with f3 | f3 | f3 <;> simp [decode32, op, systemRow, f3, csrRow_eq_none upper]
    · rcases f3 with f3 | f3 | f3 <;> simp [decode32, op, systemRow, f3, csrImmRow, reg?_eq_none.2 upper]
    · have notIall : w ≠ 0x0100000B#32 := fun h => by rw [h] at upper; exact absurd upper (by decide)
      simp [decode32, op, theadRow, notIall, reg?_eq_none.2 upper]
  · rcases upper with ⟨q, f3, upper⟩ | ⟨q, f3, upper⟩ | ⟨q, f3, upper⟩ | ⟨q, f3, upper⟩
    · have rd : reg? (cRdField h) = none := reg?_eq_none.2 (by simpa [cRdField] using upper)
      rcases f3 with f3 | f3 | f3 <;> simp [parse16, quadrantField, q, quadrant1, cFunct3Field, f3, rd]
    · have rd : reg? (cRdField h) = none := reg?_eq_none.2 (by simpa [cRdField] using upper)
      rcases f3 with f3 | f3 <;> simp [parse16, quadrantField, q, quadrant2, cFunct3Field, f3, rd]
    · have rd : reg? (cRdField h) = none ∨ reg? (cRs2Field h) = none := by
        simpa [reg?_eq_none, cRdField, cRs2Field] using upper
      rcases rd with none | none <;> simp [parse16, quadrantField, q, quadrant2, cFunct3Field, f3, quadrant2Cr, none]
    · have rs2 : reg? (cRs2Field h) = none := reg?_eq_none.2 (by simpa [cRs2Field] using upper)
      simp [parse16, quadrantField, q, quadrant2, cFunct3Field, f3, rs2]

/-- The instructions of the M family, where the core has no multiplier. -/
theorem exec_of_needsM {s : State} {i : Instr} (hasM : s.cfg.hasM = false) (m : i.needsM = true) :
    exec i s = raiseIllegal s i := by
  have absent (rd : Reg) (v : Word) : mulDiv i rd v s = raiseIllegal s i := by simp [mulDiv, hasM]
  cases i <;> cases m
  all_goals exact absent ..

/-- Settles O6: the rows of the M family answer none, and each of its instructions raises. -/
theorem multiplierAbsent : Obligations.MultiplierAbsent := by
  refine ⟨fun c w hasM op f7 => decodeCode_c32_eq_illegal_iff.2 ?_, fun s i hasM m =>
    raises_of_raiseIllegal (exec_of_needsM hasM m)⟩
  simp [decode32, op, regRow, f7, mulDivRow, mRow, hasM]

/-- A table of alternatives answers where one of its conditions holds. -/
theorem ite_some_ne_none_iff {α : Type} {p : Prop} [Decidable p] {a : α} {others : Option α} :
    ¬ (if p then some a else others) = none ↔ p ∨ ¬ others = none := by
  by_cases hp : p <;> simp [hp]

/-- Settles O7: the rows of FENCE and of the fixed SYSTEM words test the whole word. -/
theorem fenceAndFixedWordsExact : Obligations.FenceAndFixedWordsExact := by
  intro c w
  rw [ne_eq, decodeCode_c32_eq_illegal_iff]
  refine ⟨fun op => ?_, fun op f3 => ?_⟩
  · simp [decode32, op, fenceRow, ite_some_ne_none_iff]
  · rcases f3 with f3 | f3 <;> simp [decode32, op, systemRow, f3, ite_some_ne_none_iff]

end Sys2Proof.Machine


/-! SUPPORT. The halfwords of 30 R202 (`HintFormsOnlyAdvance`): a reserved form has the reserved row, a HINT form the row of
an instruction that is not well formed, and what such an instruction does. -/

namespace Sys2Proof.Machine

section
variable {h : Half}

/-- The fields of each reserved form lead to the reserved row. -/
theorem parse16_of_reservedForm (form : reservedForm h) : parse16 h = some .reserved := by
  rcases form with ⟨nonzero, wide, q⟩ | ⟨wide, low⟩ | ⟨wide, q⟩ | ⟨wide, q⟩ | ⟨f3, hrd, q⟩ | rfl
  · obtain ⟨f3, imm⟩ := (extract_eq_append_iff 0#3 0#8 rfl).1 wide
    rw [← immAddi4spn_eq_zero_iff] at imm
    change ¬ h = 0#16 at nonzero
    change cFunct3Field h = 0#3 at f3
    change quadrantField h = 0#2 at q
    simp [parse16, q, quadrant0, f3, nonzero, imm]
  · obtain ⟨f3, b12, b11⟩ := (bits_15_11_iff (a := 3#3) (b := 0#1) (c := 0#1)).1 wide
    obtain ⟨rs2, q⟩ := (bits_6_0_iff (d := 0#5) (q := 1#2)).1 low
    obtain ⟨rd, hrd⟩ := bit11_eq_zero_iff.1 b11
    have imm : immCi h = 0#6 := immCi_eq_iff.2 ⟨b12, rs2⟩
    simp [parse16, q, quadrant1, f3, hrd, imm, immAddi16sp_eq_zero_iff.2 imm]
  · obtain ⟨f3, b12, b11⟩ := (bits_15_11_iff (a := 4#3) (b := 1#1) (c := 0#1)).1 wide
    change quadrantField h = 1#2 at q
    rcases bit11_eq_zero_iff_kind.1 b11 with kind | kind <;> simp [parse16, q, quadrant1, f3, quadrant1Alu, kind, b12]
  · obtain ⟨f3, b12, b11⟩ := (bits_15_11_iff (a := 0#3) (b := 1#1) (c := 0#1)).1 wide
    change quadrantField h = 2#2 at q
    obtain ⟨rd, hrd⟩ := bit11_eq_zero_iff.1 b11
    simp [parse16, q, quadrant2, f3, hrd, b12]
  · change cFunct3Field h = 2#3 at f3
    change cRdField h = regBits 0 at hrd
    change quadrantField h = 2#2 at q
    simp [parse16, q, quadrant2, f3, hrd]
  · rfl

/-- The fields of each HINT form lead to a row whose constraint they break. -/
theorem row_of_hintForm (form : hintForm h) : ∃ i, parse16 h = some (.row i) ∧ i.wellFormed = false := by
  rcases form with ⟨f3, hrd, q, other⟩ | ⟨wide, low, other⟩ | ⟨f3, hrd, q⟩ | ⟨f3, hrd, q, other⟩ | ⟨wide, low⟩ |
    ⟨wide, q⟩ | ⟨wide, low⟩ | ⟨wide, q, other⟩ | ⟨wide, q, other⟩
  · change cFunct3Field h = 0#3 at f3
    change cRdField h = regBits 0 at hrd
    change quadrantField h = 1#2 at q
    have imm : immCi h ≠ 0#6 := fun imm => other (Code.c16.inj ((encCi_eq_iff (rd := 0)).2 ⟨q, f3, hrd, imm⟩)).symm
    exact ⟨.cAddi 0 (immCi h), by simp [parse16, q, quadrant1, f3, hrd, imm], rfl⟩
  · obtain ⟨f3, b12, b11⟩ := (bits_15_11_iff (a := 0#3) (b := 0#1) (c := 0#1)).1 wide
    obtain ⟨rs2, q⟩ := (bits_6_0_iff (d := 0#5) (q := 1#2)).1 low
    obtain ⟨rd, hrd⟩ := bit11_eq_zero_iff.1 b11
    have imm : immCi h = 0#6 := immCi_eq_iff.2 ⟨b12, rs2⟩
    have nonzero : rd ≠ 0 := by
      rintro rfl
      exact other (Code.c16.inj (encCi_eq_iff.2 ⟨q, f3, hrd, imm⟩)).symm
    exact ⟨.cAddi rd 0, by simp [parse16, q, quadrant1, f3, hrd, imm, nonzero], by simp [Instr.wellFormed]⟩
  · change cFunct3Field h = 2#3 at f3
    change cRdField h = regBits 0 at hrd
    change quadrantField h = 1#2 at q
    exact ⟨.cLi 0 (immCi h), by simp [parse16, q, quadrant1, f3, hrd], rfl⟩
  · change cFunct3Field h = 3#3 at f3
    change cRdField h = regBits 0 at hrd
    change quadrantField h = 1#2 at q
    have imm : immCi h ≠ 0#6 := fun imm => other (Code.c16.inj ((encCi_eq_iff (rd := 0)).2 ⟨q, f3, hrd, imm⟩)).symm
    exact ⟨.cLui 0 (immCi h), by simp [parse16, q, quadrant1, f3, hrd, imm], rfl⟩
  · obtain ⟨f3, b12, b11⟩ := (bits_15_11_iff (a := 4#3) (b := 0#1) (c := 0#1)).1 wide
    obtain ⟨k, q⟩ := (bits_6_0_iff (d := 0#5) (q := 1#2)).1 low
    rcases bit11_eq_zero_iff_kind.1 b11 with kind | kind
    · exact ⟨.cSrli (cReg (cHighRegField h)) 0, by simp [parse16, q, quadrant1, f3, quadrant1Alu, kind, b12, k], rfl⟩
    · exact ⟨.cSrai (cReg (cHighRegField h)) 0, by simp [parse16, q, quadrant1, f3, quadrant1Alu, kind, b12, k], rfl⟩
  · obtain ⟨f3, b12, hrd⟩ := (bits_15_7_iff (a := 0#3) (b := 0#1) (d := regBits 0)).1 wide
    change quadrantField h = 2#2 at q
    exact ⟨.cSlli 0 (cRs2Field h), by simp [parse16, q, quadrant2, f3, b12, hrd], rfl⟩
  · obtain ⟨f3, b12, b11⟩ := (bits_15_11_iff (a := 0#3) (b := 0#1) (c := 0#1)).1 wide
    obtain ⟨k, q⟩ := (bits_6_0_iff (d := 0#5) (q := 2#2)).1 low
    obtain ⟨rd, hrd⟩ := bit11_eq_zero_iff.1 b11
    exact ⟨.cSlli rd 0, by simp [parse16, q, quadrant2, f3, b12, hrd, k], by simp [Instr.wellFormed]⟩
  · obtain ⟨⟨f3, b12, hrd⟩, b6⟩ := (bits_15_6_iff (a := 4#3) (b := 0#1) (c := 0#1) (d := regBits 0)).1 wide
    change quadrantField h = 2#2 at q
    obtain ⟨rs2, hrs2⟩ := bit6_eq_zero_iff.1 b6
    have nonzero : rs2 ≠ 0 := by
      rintro rfl
      exact other (Code.c16.inj (encCr_8_eq_iff.2 ⟨q, f3, b12, hrd, hrs2⟩)).symm
    exact ⟨.cMv 0 rs2, by simp [parse16, q, quadrant2, f3, quadrant2Cr, b12, hrd, hrs2, nonzero], rfl⟩
  · obtain ⟨⟨f3, b12, hrd⟩, b6⟩ := (bits_15_6_iff (a := 4#3) (b := 1#1) (c := 0#1) (d := regBits 0)).1 wide
    change quadrantField h = 2#2 at q
    obtain ⟨rs2, hrs2⟩ := bit6_eq_zero_iff.1 b6
    have nonzero : rs2 ≠ 0 := by
      rintro rfl
      exact other (Code.c16.inj (encCr_9_eq_iff.2 ⟨q, f3, b12, hrd, hrs2⟩)).symm
    exact ⟨.cAdd 0 rs2, by simp [parse16, q, quadrant2, f3, quadrant2Cr, b12, hrd, hrs2, nonzero], rfl⟩

end

/-! ### What an idle instruction does -/

/-- Writing a register's own value back changes no register. -/
theorem setReg_reg_self (s : State) (r : Reg) : s.setReg r (s.reg r) = s := by
  unfold State.setReg
  split
  · rfl
  · next h => simp [State.reg, h]

theorem goesTo_of_setAdvance {i : Instr} {s : State} {rd : Reg} {v : Word} (e : exec i s = setAdvance s rd v 2)
    (idle : rd = 0 ∨ v = s.reg rd) : GoesTo i s (s.pc + 2) := by
  have same : s.setReg rd v = s := by
    rcases idle with rfl | rfl
    · exact s.setReg_zero v
    · exact setReg_reg_self s rd
  exact ⟨s.retire (s.pc + 2), by rw [e, setAdvance, same]; rfl, retire_pcResult s _⟩

/-- An idle instruction moves the pc by 2 and counts as retired, and changes nothing else (30 R202). -/
theorem goesTo_of_idles {i : Instr} (idle : idles i) (s : State) : GoesTo i s (s.pc + 2) := by
  cases i
  case cAddi rd imm =>
    refine goesTo_of_setAdvance rfl (idle.imp_right ?_)
    rintro rfl
    simp [sext6]
  case cLi rd imm | cLui rd imm => exact goesTo_of_setAdvance rfl (.inl idle)
  case cMv rd rs2 | cAdd rd rs2 => exact goesTo_of_setAdvance rfl (.inl idle)
  case cSrli rd k =>
    subst idle
    exact goesTo_of_setAdvance rfl (.inr (by simp))
  case cSrai rd k =>
    subst idle
    exact goesTo_of_setAdvance rfl (.inr (by simp [shiftRightArith]))
  case cSlli rd k =>
    refine goesTo_of_setAdvance rfl (idle.imp_right ?_)
    rintro rfl
    simp
  all_goals exact idle.elim

/-- Settles O8: the rows of the two kinds of form (`parse16_of_reservedForm`, `row_of_hintForm`), every other row by
`rowFits_parse16`. -/
theorem hintFormsOnlyAdvance : Obligations.HintFormsOnlyAdvance := by
  refine ⟨fun h form => ?reserved, fun h form => ?hint, fun h v w notReserved notHint => ?other, fun h i s d bad => ?idle⟩
  case reserved => simp [decode16, parse16_of_reservedForm form]
  case hint =>
    obtain ⟨i, row, bad⟩ := row_of_hintForm form
    exact ⟨by simp [decode16, row, bad], by simp [decode16, row, bad], i, by simp [decode16, row, bad], bad,
      (rowFits_parse16 row).1⟩
  case other =>
    cases row : parse16 h with
    | none => rw [decode16_of_none row, decode16_of_none row]
    | some r =>
      have fits := rowFits_parse16 row
      cases r with
      | reserved => exact absurd fits notReserved
      | row i =>
        cases wf : i.wellFormed
        · exact absurd (fits.2 wf).2 notHint
        · rw [decode16_of_row row wf, decode16_of_row row wf]
  case idle => exact goesTo_of_idles ((rowFits_parse16 (parse16_of_decode16 d)).2 bad).1 s

end Sys2Proof.Machine


/-! SUPPORT. The integer computational instructions (40 R220 to R241). Each writes one result and goes on, so `Computes` holds of
it as soon as the word it writes is the number the statement names; the arithmetic of the words is said first, once for the
register and the immediate forms. -/

namespace Sys2Proof.Machine

/-! ### Words as numbers -/

section
variable (a b : Word)

theorem add_eq_ofNat : a + b = BitVec.ofNat 32 (a.toNat + b.toNat) := by
  simp [BitVec.ofNat_add]

/-- The difference of the numbers, wrapped (40 R221): both are the word whose sum with `b` is `a`. -/
theorem sub_eq_ofInt : a - b = BitVec.ofInt 32 ((a.toNat : Int) - b.toNat) := by
  have sum : BitVec.ofInt 32 ((a.toNat : Int) - b.toNat) + b = a :=
    calc BitVec.ofInt 32 ((a.toNat : Int) - b.toNat) + b
      _ = BitVec.ofInt 32 ((a.toNat : Int) - b.toNat) + BitVec.ofInt 32 b.toNat := by simp
      _ = BitVec.ofInt 32 a.toNat := by rw [← BitVec.ofInt_add, Int.sub_add_cancel]
      _ = a := by simp
  rw [BitVec.sub_eq_iff_eq_add, sum]

theorem add_eq_ofInt_toInt : a + b = BitVec.ofInt 32 (a.toInt + b.toInt) := by
  simp [BitVec.ofInt_add]

theorem shiftLeft_eq_ofNat (k : Nat) : a <<< k = BitVec.ofNat 32 (a.toNat * 2 ^ k) := by
  apply BitVec.eq_of_toNat_eq
  rw [BitVec.toNat_shiftLeft, BitVec.toNat_ofNat, Nat.shiftLeft_eq]

theorem shiftRight_eq_ofNat (k : Nat) : a >>> k = BitVec.ofNat 32 (a.toNat / 2 ^ k) := by
  apply BitVec.eq_of_toNat_eq
  have bound : a.toNat / 2 ^ k < 2 ^ 32 := (Nat.div_le_self _ _).trans_lt a.isLt
  rw [BitVec.toNat_ushiftRight, BitVec.toNat_ofNat, Nat.mod_eq_of_lt bound, Nat.shiftRight_eq_div_pow]

/-- The arithmetic shift rounds toward minus infinity (40 R227). -/
theorem shiftRightArith_eq_ofInt (k : Nat) : shiftRightArith a k = BitVec.ofInt 32 (a.toInt / 2 ^ k) := by
  calc shiftRightArith a k
    _ = BitVec.ofInt 32 (shiftRightArith a k).toInt := BitVec.ofInt_toInt.symm
    _ = BitVec.ofInt 32 (a.toInt / 2 ^ k) := by
      rw [shiftRightArith, BitVec.toInt_sshiftRight, Int.shiftRight_eq_div_pow]
      push_cast
      rfl

/-- The low five bits of a register, as a number (40 R222). -/
theorem shiftAmount_eq_mod : shiftAmount a = a.toNat % 32 := by
  simp only [shiftAmount, extract_toNat, pow_zero, Nat.div_one, Nat.reducePow]

/-! ### Comparisons -/

theorem boolWord_decide (p : Prop) [Decidable p] : boolWord (decide p) = if p then 1 else 0 := by
  by_cases h : p <;> simp [boolWord, h]

theorem boolWord_ltSigned : boolWord (ltSigned a b) = if a.toInt < b.toInt then 1 else 0 :=
  boolWord_decide _

theorem boolWord_ltUnsigned : boolWord (ltUnsigned a b) = if a.toNat < b.toNat then 1 else 0 :=
  boolWord_decide _

end

/-! ### Immediates -/

/-- Sign extension keeps the signed number (30 R184). -/
@[simp] theorem sext12_toInt (imm : BitVec 12) : (sext12 imm).toInt = imm.toInt :=
  BitVec.toInt_signExtend_of_le (by decide)

theorem sext12_eq_ofInt (imm : BitVec 12) : sext12 imm = BitVec.ofInt 32 imm.toInt := by
  rw [← sext12_toInt, BitVec.ofInt_toInt]

/-- Twelve zero bits appended multiply by 4096 (30 R188). -/
@[simp] theorem upperImm_toNat (imm : BitVec 20) : (upperImm imm).toNat = imm.toNat * 4096 := by
  simp only [upperImm, append_toNat, BitVec.toNat_ofNat, Nat.zero_mod, Nat.add_zero, Nat.reducePow]

theorem upperImm_eq_ofNat (imm : BitVec 20) : upperImm imm = BitVec.ofNat 32 (imm.toNat * 4096) := by
  rw [← upperImm_toNat, BitVec.ofNat_toNat, BitVec.setWidth_eq]

theorem sltiuOperand_signed {c : Config} (h : c.sltiuZeroExtends = false) (imm : BitVec 12) :
    sltiuOperand c imm = BitVec.ofInt 32 imm.toInt := by
  simp [sltiuOperand, h, sext12_eq_ofInt]

theorem sltiuOperand_zeroExtended_toNat {c : Config} (h : c.sltiuZeroExtends = true) (imm : BitVec 12) :
    (sltiuOperand c imm).toNat = imm.toNat := by
  have bound : imm.toNat < 2 ^ 32 := imm.isLt.trans (by decide)
  simp only [sltiuOperand, h, if_true, BitVec.toNat_setWidth, Nat.mod_eq_of_lt bound]

/-! ### The instructions -/

/-- An instruction whose meaning is `setAdvance` computes the word it writes, in whatever form that word is stated. -/
theorem computes_of_setAdvance {i : Instr} {s : State} {rd : Reg} {v w n : Word} (e : exec i s = setAdvance s rd v n)
    (value : v = w) : Computes i s rd w n := by
  subst value
  rw [Computes, e]
  exact setAdvance_next s rd v n

/-- Settles O9. -/
theorem addSubLogicResults : Obligations.AddSubLogicResults := fun _ _ _ _ =>
  ⟨computes_of_setAdvance rfl (add_eq_ofNat _ _), computes_of_setAdvance rfl (sub_eq_ofInt _ _),
    computes_of_setAdvance rfl rfl, computes_of_setAdvance rfl rfl, computes_of_setAdvance rfl rfl⟩

/-- Settles O10: the shifts by a number of places, the number being the low five bits (`shiftAmount_eq_mod`). -/
theorem shiftResults : Obligations.ShiftResults := by
  intro s rd rs1 rs2
  rw [← shiftAmount_eq_mod]
  exact ⟨computes_of_setAdvance rfl (shiftLeft_eq_ofNat _ _), computes_of_setAdvance rfl (shiftRight_eq_ofNat _ _),
    computes_of_setAdvance rfl (shiftRightArith_eq_ofInt _ _)⟩

/-- Settles O11: SLTIU by the two values of `SLTIU_ZERO_EXTENDS` (D1). -/
theorem setLessThanResults : Obligations.SetLessThanResults := by
  intro s rd rs1 rs2 imm
  refine ⟨computes_of_setAdvance rfl (boolWord_ltSigned _ _), computes_of_setAdvance rfl (boolWord_ltUnsigned _ _),
    computes_of_setAdvance rfl ?slti, fun h => computes_of_setAdvance rfl ?sltiu,
    fun h => computes_of_setAdvance rfl ?sltiuZero⟩
  case slti => rw [boolWord_ltSigned, sext12_toInt]
  case sltiu => rw [boolWord_ltUnsigned, sltiuOperand_signed h]
  case sltiuZero => rw [boolWord_ltUnsigned, sltiuOperand_zeroExtended_toNat h]

/-- Settles O12. -/
theorem immediateResults : Obligations.ImmediateResults := by
  intro s rd rs1 imm
  rw [← sext12_eq_ofInt, ← sext12_toInt]
  exact ⟨computes_of_setAdvance rfl (add_eq_ofInt_toInt _ _), computes_of_setAdvance rfl rfl,
    computes_of_setAdvance rfl rfl, computes_of_setAdvance rfl rfl⟩

/-- Settles O13: the shifts of O10 by the immediate's number of places. -/
theorem shiftImmediateResults : Obligations.ShiftImmediateResults := fun _ _ _ _ =>
  ⟨computes_of_setAdvance rfl (shiftLeft_eq_ofNat _ _), computes_of_setAdvance rfl (shiftRight_eq_ofNat _ _),
    computes_of_setAdvance rfl (shiftRightArith_eq_ofInt _ _)⟩

/-- Settles O14. -/
theorem upperImmediateResults : Obligations.UpperImmediateResults := by
  intro s rd imm
  refine ⟨computes_of_setAdvance rfl (upperImm_eq_ofNat imm), computes_of_setAdvance rfl ?auipc⟩
  case auipc => rw [add_eq_ofNat, upperImm_toNat]

/-! ### The words of the spec's examples -/

/-- Settles O3: the decoder evaluated on each word. -/
theorem sampleWordsDecode : Obligations.SampleWordsDecode := by
  refine ⟨?_, ?_, ?_, ?_, ?_, ?_, ?_, ?_, ?_, ?_, ?_, ?_, ?_, ?_, ?_, ?_⟩ <;> decide

end Sys2Proof.Machine


/-! SUPPORT. The branches and jumps (41 R260 to R270). Each is one use of `branch` or `jumpLink`: what remains is that the
condition is the named comparison and that the offset or target is the number the statement names. -/

namespace Sys2Proof.Machine

/-! ### Targets -/

/-- A zero bit appended doubles the signed number that is added to the pc (30 R187, R189, R198). -/
theorem appendZero_signExtend_eq_ofInt {n : Nat} (short : n < 32) (imm : BitVec n) :
    (imm ++ 0#1).signExtend 32 = BitVec.ofInt 32 (2 * imm.toInt) := by
  have value : ((imm ++ 0#1).signExtend 32).toInt = 2 * imm.toInt := by
    rw [BitVec.toInt_signExtend_of_le (by omega), BitVec.toInt_append_zero, pow_one, mul_comm]
  rw [← value, BitVec.ofInt_toInt]

theorem branchOffset_eq_ofInt (imm : BitVec 12) : branchOffset imm = BitVec.ofInt 32 (2 * imm.toInt) :=
  appendZero_signExtend_eq_ofInt (by decide) imm

theorem jumpOffset_eq_ofInt (imm : BitVec 20) : jumpOffset imm = BitVec.ofInt 32 (2 * imm.toInt) :=
  appendZero_signExtend_eq_ofInt (by decide) imm

/-- Clearing bit 0 leaves the other 31 bits where they are (41 R267). -/
theorem evenTarget_eq_append (v : Word) : evenTarget v = v.extractLsb' 1 31 ++ 0#1 := by
  rw [evenTarget, show 0xFFFFFFFE = ~~~1#32 from rfl]
  ext i hi
  rw [BitVec.getElem_and, BitVec.getElem_not, BitVec.getElem_one, BitVec.getElem_append]
  cases i with
  | zero => simp
  | succ k => simp [Nat.add_comm 1 k, BitVec.getLsbD_eq_getElem hi]

/-- The target of a register jump is the register's number rounded down to an even one (41 R267, R269). -/
theorem evenTarget_eq_ofNat (v : Word) : evenTarget v = BitVec.ofNat 32 (2 * (v.toNat / 2)) := by
  have value : (evenTarget v).toNat = 2 * (v.toNat / 2) := by
    rw [evenTarget_eq_append, append_toNat, extract_toNat]
    have bound := v.isLt
    simp only [BitVec.toNat_ofNat]
    omega
  rw [← value, BitVec.ofNat_toNat, BitVec.setWidth_eq]

/-! ### Conditions -/

section
variable (a b : Word)

theorem ltSigned_iff : ltSigned a b = true ↔ a.toInt < b.toInt :=
  BitVec.slt_iff_toInt_lt

theorem ltUnsigned_iff : ltUnsigned a b = true ↔ a.toNat < b.toNat :=
  BitVec.ult_iff_toNat_lt

theorem not_ltSigned_iff : (!ltSigned a b) = true ↔ b.toInt ≤ a.toInt := by
  rw [Bool.not_eq_true', ← Bool.not_eq_true, ltSigned_iff, not_lt]

theorem not_ltUnsigned_iff : (!ltUnsigned a b) = true ↔ b.toNat ≤ a.toNat := by
  rw [Bool.not_eq_true', ← Bool.not_eq_true, ltUnsigned_iff, not_lt]

end

/-! ### The instructions -/

/-- An instruction whose meaning is `branch` goes to its target exactly when the proposition its condition decides holds. -/
theorem goesTo_of_branch {i : Instr} {s : State} {taken : Bool} {offset n : Word} {p : Prop} [Decidable p]
    (e : exec i s = branch s taken offset n) (condition : taken = true ↔ p) :
    GoesTo i s (if p then s.pc + offset else s.pc + n) := by
  simp only [← condition]
  rw [GoesTo, e]
  exact branch_next s taken offset n

/-- An instruction whose meaning is `jumpLink` links and goes to its target, in whatever form that target is stated. -/
theorem links_of_jumpLink {i : Instr} {s : State} {rd : Reg} {target w n : Word} (e : exec i s = jumpLink s rd target n)
    (value : target = w) : Links i s rd (s.pc + n) w := by
  subst value
  rw [Links, e]
  exact jumpLink_next s rd target n

/-- Settles O18: BNE's comparison is stated by the equality, so its two outcomes are exchanged. -/
theorem branchAndJumpResults : Obligations.BranchAndJumpResults := by
  intro s rd rs1 rs2
  refine ⟨?branches, fun imm => links_of_jumpLink rfl ?jal, fun imm => links_of_jumpLink rfl ?jalr⟩
  case branches =>
    rintro imm _ _ rfl rfl
    rw [← branchOffset_eq_ofInt, ← ite_not (s.reg rs1 = s.reg rs2) (s.pc + branchOffset imm)]
    exact ⟨goesTo_of_branch rfl beq_iff_eq, goesTo_of_branch rfl bne_iff_ne, goesTo_of_branch rfl (ltSigned_iff _ _),
      goesTo_of_branch rfl (not_ltSigned_iff _ _), goesTo_of_branch rfl (ltUnsigned_iff _ _),
      goesTo_of_branch rfl (not_ltUnsigned_iff _ _)⟩
  case jal => rw [jumpOffset_eq_ofInt]
  case jalr => rw [evenTarget_eq_ofNat, sext12_eq_ofInt]

end Sys2Proof.Machine


/-! SUPPORT. The loads and stores (42 R280 to R289). Every load and every store, compressed ones included, makes one access
(`exec_load`, `exec_store`), so what an access of memory gives and what a failing one raises is said once for all of them. -/

namespace Sys2Proof.Machine

/-! ### What a read of memory gives -/

/-- The first byte read is the lowest eight bits, and the bytes above it are the rest (20 R120). -/
theorem Memory.setWidth_readLE_succ (m : List Host.Cell) (a : Word) (n : Nat) {k : Nat} (fits : k ≤ 24) :
    (Memory.readLE m a (n + 1)).setWidth (k + 8) =
      (Memory.readLE m (a + 1) n).setWidth k ++ Memory.read m a.toNat := by
  ext i hi
  rw [BitVec.getElem_append, Memory.readLE]
  by_cases low : i < 8
  · simp [low, show i < 32 by omega]
  · have outside : (Memory.read m a.toNat).getLsbD i = false := BitVec.getLsbD_of_ge _ _ (by omega)
    simp [low, outside, show i < 32 by omega, BitVec.getLsbD_eq_getElem (show i - 8 < 32 by omega)]

section
variable (s : State) (a : Word)

theorem setWidth_readLE_byte : (Memory.readLE s.mem a 1).setWidth 8 = s.byteAt a := by
  rw [Memory.setWidth_readLE_succ s.mem a 0 (k := 0) (by decide)]
  exact BitVec.zero_width_append _ _

theorem setWidth_readLE_half : (Memory.readLE s.mem a 2).setWidth 16 = s.halfAt a := by
  rw [Memory.setWidth_readLE_succ s.mem a 1 (k := 8) (by decide), setWidth_readLE_byte]
  rfl

theorem readLE_word : Memory.readLE s.mem a 4 = s.wordAt a := by
  have three : (Memory.readLE s.mem (a + 1) 3).setWidth 24 = s.byteAt (a + 3) ++ s.byteAt (a + 2) ++ s.byteAt (a + 1) := by
    rw [Memory.setWidth_readLE_succ s.mem (a + 1) 2 (k := 16) (by decide), setWidth_readLE_half]
    simp only [State.halfAt, BitVec.add_assoc]
    rfl
  rw [← BitVec.setWidth_eq (Memory.readLE s.mem a 4), Memory.setWidth_readLE_succ s.mem a 3 (k := 24) (by decide), three]
  rfl

end

/-! ### Accesses that reach memory -/

section
variable {s : State} {i : Instr} {a : Word} {size : AccessSize}

/-- A load that reads memory computes its result from the bytes read. -/
theorem computes_of_loadsMemory {rd : Reg} {w n : Word} (isLoad : loadAccess s i = some (a, size))
    (loads : s.loadsMemory a size) (result : loadResult (Memory.readLE s.mem a size.bytes) i = some (rd, w, n)) :
    Computes i s rd w n := by
  obtain ⟨rd', f, n', exec, value⟩ := exec_load isLoad
  rw [value] at result
  cases result
  rw [Computes, exec]
  exact load_memory rd f n loads

theorem stores_of_storesMemory {v n : Word} (isStore : storeAccess s i = some (a, size, v, n))
    (stores : s.storesMemory a size) : Stores i s a size.bytes v n := by
  rw [Stores, exec_store isStore]
  exact store_memory v n stores

end

/-- Settles O19: the bytes read, in the words of the statement, are what `loadResult` extends. -/
theorem loadResults : Obligations.LoadResults := by
  intro s rd rs1 imm a address
  have access : a = s.effectiveAddress rs1 imm := by rw [address, State.effectiveAddress, sext12_eq_ofInt]
  rw [← setWidth_readLE_byte, ← setWidth_readLE_half, ← readLE_word, access]
  exact ⟨fun loads => computes_of_loadsMemory rfl loads rfl, fun loads => computes_of_loadsMemory rfl loads rfl,
    fun loads => computes_of_loadsMemory rfl loads rfl, fun loads => computes_of_loadsMemory rfl loads rfl,
    fun loads => computes_of_loadsMemory rfl loads rfl⟩

/-- Settles O20. -/
theorem storeResults : Obligations.StoreResults := fun _ _ _ _ =>
  ⟨stores_of_storesMemory rfl, stores_of_storesMemory rfl, stores_of_storesMemory rfl⟩

/-! ### Accesses that fail -/

theorem aligned_iff_mod (a : Word) (size : AccessSize) : aligned a size = true ↔ a.toNat % size.bytes = 0 := by
  refine ⟨fun h => ?_, aligned_of_mod⟩
  cases size with
  | byte => exact Nat.mod_one _
  | half => simpa [BitVec.extractLsb'_toNat, AccessSize.bytes] using congrArg BitVec.toNat (beq_iff_eq.1 h)
  | word => simpa [BitVec.extractLsb'_toNat, AccessSize.bytes] using congrArg BitVec.toNat (beq_iff_eq.1 h)

/-- What denies an aligned access: the PMP, a device register outside machine mode, or the bus (20 R136, R152, R163). -/
def State.deniesAccess (s : State) (a : Word) (size : AccessSize) (kind : AccessKind) : Prop :=
  s.pmpAllows s.dataPriv kind a = false ∨
    inTcip a = true ∧ s.dataPriv = .user ∨ inTcip a = false ∧ s.busError a size kind = true

section
variable {s : State} {i : Instr} {a : Word} {size : AccessSize}

theorem not_deniesAccess_memory {kind : AccessKind} (allowed : s.pmpAllows s.dataPriv kind a = true)
    (outside : inTcip a = false) (answered : s.busError a size kind = false) : ¬ s.deniesAccess a size kind := by
  simp [State.deniesAccess, allowed, outside, answered]

theorem not_deniesAccess_device {kind : AccessKind} (allowed : s.pmpAllows s.dataPriv kind a = true)
    (inside : inTcip a = true) (machine : s.dataPriv = .machine) : ¬ s.deniesAccess a size kind := by
  rw [machine] at allowed
  simp [State.deniesAccess, allowed, inside, machine]

theorem memRead_misaligned (misaligned : a.toNat % size.bytes ≠ 0) :
    s.memRead a size = .raised (.loadMisaligned a) := by
  simp [State.memRead, mt (aligned_iff_mod a size).1 misaligned]

theorem memWrite_misaligned (v : Word) (misaligned : a.toNat % size.bytes ≠ 0) :
    s.memWrite a size v = .raised (.storeMisaligned a) := by
  simp [State.memWrite, mt (aligned_iff_mod a size).1 misaligned]

/-- Of everything a read can answer, only the access fault is left. -/
theorem memRead_denied (multiple : a.toNat % size.bytes = 0) (denied : s.deniesAccess a size .load) :
    s.memRead a size = .raised (.loadAccessFault a) := by
  rcases memRead_cases s a size with ⟨⟨_, allowed, outside, answered⟩, _⟩ | ⟨_, allowed, inside, machine, _⟩ |
    ⟨misaligned, _⟩ | ⟨_, raised⟩
  · exact absurd denied (not_deniesAccess_memory allowed outside answered)
  · exact absurd denied (not_deniesAccess_device allowed inside machine)
  · simp [aligned_of_mod multiple] at misaligned
  · exact raised

/-- Of everything a write can answer, only the access fault is left. -/
theorem memWrite_denied (v : Word) (multiple : a.toNat % size.bytes = 0) (denied : s.deniesAccess a size .store) :
    s.memWrite a size v = .raised (.storeAccessFault a) := by
  rcases memWrite_cases s a size v with ⟨⟨_, allowed, outside, answered⟩, _⟩ | ⟨_, allowed, inside, machine, _⟩ |
    ⟨misaligned, _⟩ | ⟨_, raised⟩
  · exact absurd denied (not_deniesAccess_memory allowed outside answered)
  · exact absurd denied (not_deniesAccess_device allowed inside machine)
  · simp [aligned_of_mod multiple] at misaligned
  · exact raised

/-- A load whose read raises an exception raises it. -/
theorem raises_of_memRead {e : Exc} (isLoad : loadAccess s i = some (a, size)) (raised : s.memRead a size = .raised e) :
    Raises i s e.code e.info := by
  obtain ⟨rd, f, n, exec, _⟩ := exec_load isLoad
  exact ⟨s.trapEntry e, by simp only [exec, load, raised, raise_eq], trapEntry_outcome s e⟩

/-- A store whose write raises an exception raises it. -/
theorem raises_of_memWrite {e : Exc} {v n : Word} (isStore : storeAccess s i = some (a, size, v, n))
    (raised : s.memWrite a size v = .raised e) : Raises i s e.code e.info :=
  ⟨s.trapEntry e, by simp only [exec_store isStore, store, raised, raise_eq], trapEntry_outcome s e⟩

end

/-- Settles O21: the codes and MTVAL are those of the exception the access raises. -/
theorem accessFaults : Obligations.AccessFaults := by
  intro s i a size
  refine ⟨fun isLoad => ⟨fun misaligned => ?_, fun multiple denied => ?_⟩,
    fun v n isStore => ⟨fun misaligned => ?_, fun multiple denied => ?_⟩⟩
  · exact raises_of_memRead isLoad (memRead_misaligned misaligned)
  · exact raises_of_memRead isLoad (memRead_denied multiple denied)
  · exact raises_of_memWrite isStore (memWrite_misaligned v misaligned)
  · exact raises_of_memWrite isStore (memWrite_denied v multiple denied)

end Sys2Proof.Machine


/-! SUPPORT. The fences, the two cache instructions, ECALL, EBREAK and WFI (43 R310 to R315; 46 R400 to R403): what a line of
the cache holds after it is dropped, and that a fetch with nothing older to return reads memory (`CallBreakWaitResults`,
`FenceAndCacheResults`). -/

namespace Sys2Proof.Machine

/-! ### Calls, breakpoints and waiting -/

theorem raises_of_raise {s : State} {i : Instr} {e : Exc} (h : exec i s = raise s e) : Raises i s e.code e.info :=
  ⟨_, h, trapEntry_outcome s e⟩

/-- Settles O34: which exception is raised, or that none is, is the one condition of each meaning. -/
theorem callBreakWaitResults : Obligations.CallBreakWaitResults := by
  intro s
  refine ⟨fun user => ?ecallU, fun machine => ?ecallM, fun trap => ?trap, fun debug => ?debug, fun machine => ?wait,
    fun user => ?waitUser⟩
  case ecallU => exact raises_of_raise (e := .ecallU) (congrArg (raise s) (if_pos user))
  case ecallM => exact raises_of_raise (e := .ecallM) (congrArg (raise s) (if_neg (by simp [machine])))
  case trap =>
    have raised : breakpoint s = raise s .breakpoint := if_neg (by simp [trap])
    exact ⟨raises_of_raise (e := .breakpoint) raised, raises_of_raise (e := .breakpoint) raised⟩
  case debug => exact ⟨if_pos debug, if_pos debug⟩
  case wait => exact if_neg (by simp [machine])
  case waitUser => exact raises_of_raiseIllegal (if_pos (by simp [user]))

/-! ### The lines of the cache -/

theorem Icache.view_empty (line : Nat) : Icache.empty.view line = .absent := rfl

/-- The line just dropped is absent, every other line as before (46 R402). -/
theorem Icache.view_put_none (c : Icache) (line other : Nat) :
    (c.put line none).view other = if other = line then .absent else c.view other := by
  by_cases same : other = line
  · subst same
    simp [Icache.view, Icache.put]
  · have skip : (c.put line none).lines.find? (fun e => e.1 == other) =
        (c.put line (some (Vector.replicate 16 0))).lines.find? (fun e => e.1 == other) := by
      simp [Icache.put, Ne.symm same]
    rw [if_neg same, Icache.view, skip]
    exact (c.view_put line other _).trans (if_neg same)

theorem lineOf_eq_div (a : Word) : lineOf a = a.toNat / 16 := by
  rw [lineOf, BitVec.toNat_ushiftRight, Nat.shiftRight_eq_div_pow]

/-! ### The fences -/

/-- With no older value remembered and the fetched line absent wherever the cache is used, a fetch reads memory. -/
theorem fetchHalf_fresh {s u : State} {a : Word} {h : Half} (forgotten : s.stale = [])
    (absent : s.usesIcache a = true → s.icache.view (lineOf a) = .absent) (ok : s.fetchHalf a = .ok (h, u)) :
    h = s.halfAt a := by
  have known : s.usesIcache a = true → s.icache.view (lineOf a) ≠ .anything := by
    intro uses
    rw [absent uses]
    simp
  rcases (fetchOldOrNew s u a h ok known).1 with memory | remembered | ⟨uses, bytes, copy, _⟩
  · exact memory
  · rw [forgotten] at remembered
    cases remembered
  · rw [absent uses] at copy
    cases copy

theorem usesIcache_iff (s : State) (a : Word) : s.usesIcache a = true ↔
    s.cfg.icacheSize ≠ .none ∧ s.csr.icacheEnable = true ∧ (memAttr s.cfg a).cacheable = true := by
  simp [State.usesIcache, and_assoc]

theorem fenceIEmpties_iff (s : State) : s.fenceIEmpties = true ↔
    s.cfg.icacheSize ≠ .none ∧ (s.csr.icacheEnable = true ∨ s.cfg.fenceIEmptiesIdleCache = true) := by
  simp [State.fenceIEmpties]

/-- The state after FENCE.I. -/
theorem exec_fenceI (s : State) : exec .fenceI s = .next { s with
    icache := if s.fenceIEmpties then .empty else s.icache
    stale := []
    pc := s.pc + 4
    minstret := s.minstret + 1 } := rfl

theorem cacheOpsEnabled_iff (s : State) : s.cacheOpsEnabled = true ↔ s.priv = .machine ∧ s.csr.theadisaee = true := by
  simp [State.cacheOpsEnabled]

/-- The word of ICACHE.IPA, its register field at bit 15 (46 R402). -/
theorem encode_icacheIpa_toWord (rs1 : Reg) :
    (encode (.icacheIpa rs1)).toWord = 0x0380000B + BitVec.ofNat 32 (rs1.val * 2 ^ 15) := by
  revert rs1; decide

/-- Settles O31: after FENCE.I no older parcel is remembered, and the line a fetch may use is absent (`fetchHalf_fresh`). -/
theorem fenceAndCacheResults : Obligations.FenceAndCacheResults := by
  intro s
  refine ⟨fun p q => ⟨_, rfl, retire_pcResult s _⟩, ⟨_, exec_fenceI s, rfl, ?emptied, ?kept, ?fetch⟩, ?enabled,
    ?disabled⟩
  case emptied =>
    intro present acts line
    dsimp only
    rw [if_pos ((fenceIEmpties_iff s).2 ⟨present, acts⟩)]
    exact Icache.view_empty line
  case kept =>
    intro idle
    refine if_neg fun empties => ?_
    obtain ⟨present, acts⟩ := (fenceIEmpties_iff s).1 empties
    rcases idle with absent | ⟨off, notIdle⟩
    · exact present absent
    · simp [off, notIdle] at acts
  case fetch =>
    intro a h u
    refine fetchHalf_fresh rfl fun uses => ?_
    obtain ⟨present, on, _⟩ := (usesIcache_iff _ a).1 uses
    dsimp only
    rw [if_pos ((fenceIEmpties_iff s).2 ⟨present, .inl on⟩)]
    exact Icache.view_empty _
  case enabled =>
    intro machine enabled
    have on := (cacheOpsEnabled_iff s).2 ⟨machine, enabled⟩
    refine ⟨⟨_, if_pos on, rfl, Icache.view_empty⟩, fun rs1 => ⟨_, if_pos on, rfl, fun line => ?_⟩⟩
    rw [← lineOf_eq_div]
    exact Icache.view_put_none s.icache _ line
  case disabled =>
    intro without
    have off : ¬ s.cacheOpsEnabled = true := by
      rw [cacheOpsEnabled_iff]
      rintro ⟨machine, enabled⟩
      simp [machine, enabled] at without
    refine ⟨raises_of_raiseIllegal (if_neg off), fun rs1 => ?_⟩
    rw [← encode_icacheIpa_toWord]
    exact raises_of_raiseIllegal (if_neg off)

end Sys2Proof.Machine


/-! SUPPORT. The six CSR instructions (43 R300 to R307, R309). Each is one `csrAccess`, which on every register but the three
of 43 R308 is the exchange of steps 6 to 8, so what an exchange leaves is said once for all six (`CsrInstructionResults`). -/

namespace Sys2Proof.Machine

/-! ### The exchange -/

/-- The state after steps 6 and 7 of 43 R300, the read and the write, before `rd` and the pc are written. -/
def State.csrReadWrite (s : State) (r : Csr) (op : CsrOp) (imm : Bool) (operand : Word) (performs : Bool) : State :=
  if performs then (s.csrRead r).2.csrWrite r (csrNew s.cfg op imm (s.csrRead r).1 operand) else (s.csrRead r).2

section
variable (s : State) (r : Csr) (rd : Reg) (op : CsrOp) (imm : Bool) (operand : Word) (performs : Bool)

/-- The read and the write change the control registers, the counters, the PMP and the model's own counts only. -/
theorem csrReadWrite_changes : ∃ c m i n p d, s.csrReadWrite r op imm operand performs =
    { s with csr := c, mcycle := m, minstret := i, mcpuidNext := n, pmp := p, draws := d } := by
  obtain ⟨m, d, n, read⟩ := csrRead_changes s r
  unfold State.csrReadWrite
  split
  · obtain ⟨c, m', i, p, d', write⟩ := csrWrite_changes (s.csrRead r).2 r (csrNew s.cfg op imm (s.csrRead r).1 operand)
    exact ⟨c, m', i, n, p, d', by rw [write, read]⟩
  · exact ⟨s.csr, m, s.minstret, n, s.pmp, d, read⟩

/-- Only a performed write of MINSTRET or MINSTRETH changes the retired count (43 R309). -/
theorem csrReadWrite_minstret (keeps : (performs && r.isInstret) = false) :
    (s.csrReadWrite r op imm operand performs).minstret = s.minstret := by
  have readKeeps : (s.csrRead r).2.minstret = s.minstret := by
    obtain ⟨_, _, _, read⟩ := csrRead_changes s r
    rw [read]
  unfold State.csrReadWrite
  split
  · next writes =>
    rw [writes, Bool.true_and] at keeps
    rw [← readKeeps]
    refine (csrWrite_frame (s.csrRead r).2 r _).minstret ?_ ?_ <;> rintro rfl <;> cases keeps
  · exact readKeeps

/-- Step 8 of 43 R300 after steps 6 and 7, and the count of 43 R309. -/
theorem csrExchange_eq : s.csrExchange r rd op imm operand performs =
    if performs && r.isInstret then
      { (s.csrReadWrite r op imm operand performs).setReg rd (s.csrRead r).1 with
        pc := ((s.csrReadWrite r op imm operand performs).setReg rd (s.csrRead r).1).pc + 4 }
    else ((s.csrReadWrite r op imm operand performs).setReg rd (s.csrRead r).1).advance 4 := rfl

theorem csrExchange_reg (q : Reg) : (s.csrExchange r rd op imm operand performs).reg q =
    ((s.csrReadWrite r op imm operand performs).setReg rd (s.csrRead r).1).reg q := by
  rw [csrExchange_eq]
  split <;> rfl

/-- An exchange, in the words of `CsrResult`. -/
theorem csrExchange_result : CsrResult s (s.csrExchange r rd op imm operand performs)
    (s.csrReadWrite r op imm operand performs) rd r (s.csrRead r).1 performs := by
  obtain ⟨_, _, _, _, _, _, changes⟩ := csrReadWrite_changes s r op imm operand performs
  have value := csrExchange_reg s r rd op imm operand performs
  constructor
  case result => exact fun h => (value rd).trans (State.setReg_reg_same _ rd _ h)
  case zero => rfl
  case others =>
    intro q h
    rw [value, State.setReg_reg_other _ _ h]
    exact State.reg_congr (by rw [changes]) q
  case rest =>
    have count := csrReadWrite_minstret s r op imm operand performs
    rw [csrExchange_eq, setReg_eq]
    rw [changes] at count ⊢
    cases counts : performs && r.isInstret
    · rw [show _ = s.minstret from count counts]
      rfl
    · rfl

end

/-! ### The access -/

/-- An access of a register with no rule of its own that does not trap is an exchange. -/
theorem csrAccess_exchange {i : Instr} {rd : Reg} {n : BitVec 12} {op : CsrOp} {imm : Bool} {f : BitVec 5} {v : Word}
    {s : State} {r : Csr} (mode : s.priv = .machine) (h : csr? n = some r) (notMnxti : r ≠ .mnxti)
    (notCsw : r ≠ .mscratchcsw) (notCswl : r ≠ .mscratchcswl)
    (allowed : r.writeTraps s.cfg = true → csrPerformsWrite s.cfg op f = false) :
    csrAccess i rd n op imm f v s = .next (s.csrExchange r rd op imm v (csrPerformsWrite s.cfg op f)) := by
  have passes : (csrPerformsWrite s.cfg op f && r.writeTraps s.cfg) = false := by
    cases traps : r.writeTraps s.cfg
    · exact Bool.and_false _
    · rw [allowed traps, Bool.false_and]
  cases r
  case mnxti => exact absurd rfl notMnxti
  case mscratchcsw => exact absurd rfl notCsw
  case mscratchcswl => exact absurd rfl notCswl
  all_goals simp only [csrAccess, mode, h, passes, ne_eq, not_true_eq_false, if_false, Bool.false_eq_true]

/-- CSRRW and CSRRWI perform no write only under `CSR_WRITE_NOTE_LITERAL` (43 R301). -/
theorem write_readsOnly_iff (c : Config) (f : BitVec 5) :
    csrPerformsWrite c .write f = false ↔ c.csrWriteNoteLiteral = true ∧ f = 0 := by
  simp [csrPerformsWrite]

theorem modify_readsOnly_iff (c : Config) {op : CsrOp} (modifies : op ≠ .write) (f : BitVec 5) :
    csrPerformsWrite c op f = false ↔ f = 0 := by
  cases op
  case write => exact absurd rfl modifies
  all_goals exact bne_eq_false_iff_eq

/-- An instruction that makes an access exchanges the register, given when it performs no write (43 R301) and what it writes
otherwise (43 R302 to R307). -/
theorem csrExchanges_of_access {i : Instr} {s : State} {rd : Reg} {n : BitVec 12} {op : CsrOp} {imm : Bool}
    {f : BitVec 5} {v : Word} {p : Prop} [Decidable p] {new : Word → Word} (mode : s.priv = .machine)
    (access : exec i s = csrAccess i rd n op imm f v s) (readsOnly : csrPerformsWrite s.cfg op f = false ↔ p)
    (value : ∀ old, csrNew s.cfg op imm old v = new old) :
    CsrExchanges i s rd n (fun old => if p then none else some (new old)) := by
  intro r old s1 number notMnxti notCsw notCswl read allowed
  have readValue : old = (s.csrRead r).1 := congrArg Prod.fst read
  have readState : s1 = (s.csrRead r).2 := congrArg Prod.snd read
  subst readValue readState
  have result := csrExchange_result s r rd op imm v (csrPerformsWrite s.cfg op f)
  refine ⟨_, access.trans (csrAccess_exchange mode number notMnxti notCsw notCswl fun traps => ?_), ?_⟩
  · refine readsOnly.2 (by_contra fun writes => ?_)
    have written := (if_neg writes).symm.trans (allowed traps)
    cases written
  · dsimp only
    by_cases h : p
    · rw [readsOnly.2 h] at result ⊢
      rw [if_pos h]
      exact result
    · rw [eq_true_of_ne_false (mt readsOnly.1 h)] at result ⊢
      rw [← value, if_neg h]
      exact result

/-! ### The values written -/

theorem zext5_eq_append (imm : BitVec 5) : zext5 imm = 0#27 ++ imm := by
  rw [zext5_eq_field, ← placeField_word (0#27 ++ imm), placeField_append, placeField_zero, BitVec.zero_or]

/-- Replacing the low five bits: CSRRWI under `CSRRWI_LOW5_ONLY`. -/
theorem and_or_zext5_eq_append (old : Word) (imm : BitVec 5) :
    (old &&& 0xFFFFFFE0) ||| zext5 imm = old.extractLsb' 5 27 ++ imm := by
  rw [zext5_eq_field, ← placeField_word (old.extractLsb' 5 27 ++ imm), placeField_append, placeField_extract]
  rfl

/-- Settles O37: of each of the six, when it only reads and what it writes otherwise. -/
theorem csrInstructionResults : Obligations.CsrInstructionResults := by
  intro s rd rs1 n imm mode
  have zeroField : regBits rs1 = 0 ↔ rs1 = 0 := by
    rw [← beq_iff_eq, regBits_eq_zero_iff, beq_iff_eq]
  simp only [← apply_ite some]
  refine ⟨csrExchanges_of_access mode rfl ?csrrw fun _ => rfl, csrExchanges_of_access mode rfl ?csrrs fun _ => rfl,
    csrExchanges_of_access mode rfl ?csrrc fun _ => rfl, csrExchanges_of_access mode rfl ?csrrwi fun old => ?written,
    csrExchanges_of_access mode rfl ?csrrsi fun old => ?set, csrExchanges_of_access mode rfl ?csrrci fun old => ?cleared⟩
  case csrrw => exact (write_readsOnly_iff ..).trans (and_congr_right' zeroField)
  case csrrs | csrrc => exact (modify_readsOnly_iff s.cfg (by decide) _).trans zeroField
  case csrrwi => exact write_readsOnly_iff ..
  case csrrsi | csrrci => exact modify_readsOnly_iff s.cfg (by decide) imm
  case written =>
    rw [← zext5_eq_append, ← and_or_zext5_eq_append]
    rfl
  case set | cleared =>
    rw [← zext5_eq_append]
    rfl

end Sys2Proof.Machine


/-! SUPPORT. The multiply and divide instructions (44 R332 to R339). On a core with the multiplier each is one `setAdvance`
(`computes_of_mulDiv`). The model computes on integers; the statements name halves of a 64-bit product and the divisions of
words, so the arithmetic says first that narrowing the integer gives that word. -/

namespace Sys2Proof.Machine

/-! ### Halves of the 64-bit product -/

theorem lowWord_eq_extract (p : Int) : lowWord p = (BitVec.ofInt 64 p).extractLsb' 0 32 := by
  apply BitVec.eq_of_toNat_eq
  rw [lowWord, extract_toNat, BitVec.toNat_ofInt, BitVec.toNat_ofInt]
  omega

theorem highWord_eq_extract (p : Int) : highWord p = (BitVec.ofInt 64 p).extractLsb' 32 32 := by
  apply BitVec.eq_of_toNat_eq
  rw [highWord, extract_toNat, BitVec.toNat_ofInt, BitVec.toNat_ofInt]
  omega

section
variable (a b : Word)

theorem ofInt_toInt_eq_signExtend : BitVec.ofInt 64 a.toInt = a.signExtend 64 := by
  rw [← BitVec.toInt_signExtend_of_le (x := a) (v := 64) (by decide), BitVec.ofInt_toInt]

theorem ofInt_toNat_eq_setWidth : BitVec.ofInt 64 a.toNat = a.setWidth 64 := by
  rw [BitVec.ofInt_natCast, BitVec.ofNat_toNat]

/-! ### Quotients and remainders -/

/-- Division of words rounds toward zero and wraps in the overflow, where the narrowing wraps too (log 29). -/
theorem sdiv_eq_ofInt : a.sdiv b = BitVec.ofInt 32 (a.toInt.tdiv b.toInt) := by
  apply BitVec.eq_of_toInt_eq
  rw [BitVec.toInt_sdiv, BitVec.toInt_ofInt]

theorem srem_eq_ofInt : a.srem b = BitVec.ofInt 32 (a.toInt.tmod b.toInt) := by
  rw [← BitVec.toInt_srem, BitVec.ofInt_toInt]

theorem divOverflows_iff : divOverflows a b = true ↔ a = 0x80000000 ∧ b = 0xFFFFFFFF := by
  rw [divOverflows, Bool.and_eq_true, beq_iff_eq, beq_iff_eq]

/-- DIV's result by its three cases (44 R336). -/
theorem quotientSigned_eq : quotientSigned a b =
    if b = 0 then 0xFFFFFFFF else if a = 0x80000000 ∧ b = 0xFFFFFFFF then 0x80000000 else a.sdiv b := by
  simp only [quotientSigned, divOverflows_iff, sdiv_eq_ofInt]

/-- REM's result by its three cases (44 R338). -/
theorem remainderSigned_eq : remainderSigned a b =
    if b = 0 then a else if a = 0x80000000 ∧ b = 0xFFFFFFFF then 0 else a.srem b := by
  simp only [remainderSigned, divOverflows_iff, srem_eq_ofInt, Int.tmod_def]

theorem quotientUnsigned_eq : quotientUnsigned a b = if b = 0 then 0xFFFFFFFF else a / b := by
  rw [quotientUnsigned, BitVec.udiv_def]

theorem remainderUnsigned_eq : remainderUnsigned a b = if b = 0 then a else a % b := by
  rw [remainderUnsigned, BitVec.umod_def]

/-! ### The division identity -/

variable {a b}

/-- For every divisor but 0 the overflow is no exception: its fixed result is the wrapped quotient. -/
theorem quotientSigned_of_ne_zero (nonzero : b ≠ 0) : quotientSigned a b = a.sdiv b := by
  rw [quotientSigned_eq, if_neg nonzero]
  split
  next overflow => obtain ⟨rfl, rfl⟩ := overflow; decide
  next => rfl

theorem remainderSigned_of_ne_zero (nonzero : b ≠ 0) : remainderSigned a b = a.srem b := by
  rw [remainderSigned_eq, if_neg nonzero]
  split
  next overflow => obtain ⟨rfl, rfl⟩ := overflow; decide
  next => rfl

/-- Signed division with a remainder, as words: the integers' own identity, narrowed. -/
theorem mul_sdiv_add_srem : b * a.sdiv b + a.srem b = a := by
  calc b * a.sdiv b + a.srem b
    _ = BitVec.ofInt 32 (b.toInt * a.toInt.tdiv b.toInt + a.toInt.tmod b.toInt) := by
      rw [BitVec.ofInt_add, BitVec.ofInt_mul, BitVec.ofInt_toInt, ← sdiv_eq_ofInt, ← srem_eq_ofInt]
    _ = BitVec.ofInt 32 a.toInt := by rw [Int.mul_tdiv_add_tmod]
    _ = a := BitVec.ofInt_toInt

/-- Unsigned division with a remainder, as words: the numbers' own identity, narrowed. -/
theorem mul_udiv_add_umod : b * (a / b) + a % b = a := by
  apply BitVec.eq_of_toNat_eq
  rw [BitVec.toNat_add, BitVec.toNat_mul, BitVec.toNat_udiv, BitVec.toNat_umod, Nat.mod_add_mod, Nat.div_add_mod,
    Nat.mod_eq_of_lt a.isLt]

/-- The signed remainder is smaller than the divisor in magnitude, and 0 or of the dividend's sign (log 29). -/
theorem srem_bounds (nonzero : b ≠ 0) : (a.srem b).toInt.natAbs < b.toInt.natAbs ∧
    (0 ≤ a.toInt → 0 ≤ (a.srem b).toInt) ∧ (a.toInt ≤ 0 → (a.srem b).toInt ≤ 0) := by
  have divisor : 0 < b.toInt.natAbs := Int.natAbs_pos.2 fun zero => nonzero (BitVec.eq_of_toInt_eq zero)
  rw [BitVec.toInt_srem, Int.natAbs_tmod]
  refine ⟨Nat.mod_lt _ divisor, Int.tmod_nonneg _, fun nonpos => ?_⟩
  have negated : 0 ≤ (-a.toInt).tmod b.toInt := Int.tmod_nonneg _ (by omega)
  rw [Int.neg_tmod] at negated
  omega

end

/-! ### The instructions -/

/-- With the multiplier an instruction of the family computes the word it writes, in whatever form that word is stated. -/
theorem computes_of_mulDiv {i j : Instr} {s : State} {rd : Reg} {v w : Word} (hasM : s.cfg.hasM = true)
    (e : exec i s = mulDiv j rd v s) (value : v = w) : Computes i s rd w 4 :=
  computes_of_setAdvance (e.trans (if_pos hasM)) value

/-- A register other than x0 holds, in the state the instruction answers, the word computed. -/
theorem reg_of_computes {i : Instr} {s t : State} {rd : Reg} {v n : Word} (computes : Computes i s rd v n)
    (notZero : rd ≠ 0) (next : exec i s = .next t) : t.reg rd = v := by
  obtain ⟨u, answer, written⟩ := computes
  cases next.symm.trans answer
  exact written.result notZero

/-- Settles O15: each half of the narrowed product is the half of the product of the extended operands. -/
theorem multiplyResults : Obligations.MultiplyResults := by
  intro s rd rs1 rs2 hasM
  simp only [← ofInt_toInt_eq_signExtend, ← ofInt_toNat_eq_setWidth, ← BitVec.ofInt_mul]
  exact ⟨computes_of_mulDiv hasM rfl (lowWord_eq_extract _), computes_of_mulDiv hasM rfl (highWord_eq_extract _),
    computes_of_mulDiv hasM rfl (highWord_eq_extract _), computes_of_mulDiv hasM rfl (highWord_eq_extract _)⟩

/-- Settles O16. -/
theorem divideResults : Obligations.DivideResults := fun _ _ _ _ hasM =>
  ⟨computes_of_mulDiv hasM rfl (quotientSigned_eq _ _), computes_of_mulDiv hasM rfl (quotientUnsigned_eq _ _),
    computes_of_mulDiv hasM rfl (remainderSigned_eq _ _), computes_of_mulDiv hasM rfl (remainderUnsigned_eq _ _)⟩

/-- Settles O17: what the two instructions leave in `rd` are the quotient and the remainder of words, whose identity and
bounds are `mul_sdiv_add_srem` and `srem_bounds`, or unsigned `mul_udiv_add_umod`. -/
theorem divisionIdentity : Obligations.DivisionIdentity := by
  rintro s t u i j rd rs1 rs2 _ _ _ _ hasM notZero rfl rfl nonzero pair quotient remainder rfl rfl
  rcases pair with ⟨rfl, rfl⟩ | ⟨rfl, rfl⟩
  case inl =>
    rw [reg_of_computes (computes_of_mulDiv hasM rfl (quotientSigned_of_ne_zero nonzero)) notZero quotient,
      reg_of_computes (computes_of_mulDiv hasM rfl (remainderSigned_of_ne_zero nonzero)) notZero remainder]
    exact ⟨mul_sdiv_add_srem.symm, nofun, fun _ => srem_bounds nonzero⟩
  case inr =>
    have positive : 0 < s.reg rs2 := (BitVec.pos_iff_ne_zero _).2 nonzero
    rw [reg_of_computes (computes_of_mulDiv hasM rfl ((quotientUnsigned_eq _ _).trans (if_neg nonzero))) notZero quotient,
      reg_of_computes (computes_of_mulDiv hasM rfl ((remainderUnsigned_eq _ _).trans (if_neg nonzero))) notZero remainder]
    exact ⟨mul_udiv_add_umod.symm, fun _ => BitVec.umod_lt _ positive, nofun⟩

end Sys2Proof.Machine


/-! SUPPORT. The compressed instructions (45 R350 to R382). An immediate with zero bits appended is its number scaled, signed or
unsigned as its format says, and a base instruction's field that holds a compressed immediate extends to the same word. With
that each instruction is one use of the shared meaning of its kind. -/

namespace Sys2Proof.Machine

/-! ### Immediates as numbers -/

section
variable {n : Nat}

theorem signExtend_eq_ofInt (fits : n ≤ 32) (x : BitVec n) : x.signExtend 32 = BitVec.ofInt 32 x.toInt := by
  rw [← BitVec.toInt_signExtend_of_le fits, BitVec.ofInt_toInt]

/-- Zero bits appended scale a signed immediate by a power of 2 (30 R198). -/
theorem signExtend_append_zero (k : Nat) (fits : n + k ≤ 32) (imm : BitVec n) :
    (imm ++ 0#k).signExtend 32 = BitVec.ofInt 32 (2 ^ k * imm.toInt) := by
  rw [signExtend_eq_ofInt fits, BitVec.toInt_append_zero]

/-- The offsets in words are unsigned (30 R198). -/
theorem setWidth_append_zero_two (imm : BitVec n) : (imm ++ 0#2).setWidth 32 = BitVec.ofNat 32 (4 * imm.toNat) := by
  have scaled : (imm ++ 0#2).toNat = 4 * imm.toNat := by
    rw [append_toNat, mul_comm]
    rfl
  rw [← scaled, BitVec.ofNat_toNat]

/-- Sign extension in two steps, by way of a base instruction's field of 12 bits. -/
theorem sext12_signExtend (fits : n ≤ 12) (x : BitVec n) : sext12 (x.signExtend 12) = x.signExtend 32 := by
  rw [sext12_eq_ofInt, BitVec.toInt_signExtend_of_le fits, signExtend_eq_ofInt (by omega)]

/-- A field of 12 bits that holds fewer bits is not negative. -/
theorem sext12_setWidth (fits : n < 12) (x : BitVec n) : sext12 (x.setWidth 12) = x.setWidth 32 := by
  have nonneg : (x.setWidth 12).msb = false := by
    rw [BitVec.msb_eq_getLsbD_last, BitVec.getLsbD_setWidth, BitVec.getLsbD_of_ge _ _ (by omega), Bool.and_false]
  rw [sext12, BitVec.signExtend_eq_setWidth_of_msb_false nonneg, BitVec.setWidth_setWidth (by omega)]

end

theorem sext6_eq_ofInt (imm : BitVec 6) : sext6 imm = BitVec.ofInt 32 imm.toInt :=
  signExtend_eq_ofInt (by decide) imm

/-- C.LUI's word is the one LUI makes of the sign-extended field (45 R370). -/
theorem upperImm_signExtend (imm : BitVec 6) : upperImm (imm.signExtend 20) = cLuiImm imm := by
  apply BitVec.eq_of_toInt_eq
  rw [upperImm, cLuiImm, BitVec.toInt_append_zero, BitVec.toInt_signExtend_of_le (by decide),
    BitVec.toInt_signExtend_of_le (by decide), BitVec.toInt_append_zero]

/-! ### The instructions -/

section
variable {s : State} {i : Instr}

/-- Two instructions that write the same word to the same register, one 4 and one 2 bytes long, differ in the pc alone. -/
theorem next_withPc_of_setAdvance {j : Instr} {rd : Reg} {v w : Word} (compressed : exec i s = setAdvance s rd v 2)
    (base : exec j s = setAdvance s rd w 4) (value : w = v) :
    ∃ t, exec j s = .next t ∧ exec i s = .next { t with pc := s.pc + 2 } := by
  refine ⟨_, base, ?_⟩
  rw [compressed, ← value, setAdvance, State.advance, State.setReg_pc]
  rfl

/-- An instruction that only retires at its target goes there. -/
theorem goesTo_of_retire {target : Word} (e : exec i s = .next (s.retire target)) : GoesTo i s target :=
  ⟨_, e, retire_pcResult s target⟩

end

/-- Settles O28: what is left of each pair is that the two words written are the same, by the extensions of the immediates. -/
theorem compressedMatchBase : Obligations.CompressedMatchBase := by
  rintro s i j (⟨rd, rs2, rfl, rfl⟩ | ⟨rd, rs2, rfl, rfl⟩ | ⟨rd, imm, rfl, rfl⟩ | ⟨rd, imm, rfl, rfl⟩ |
    ⟨rd, imm, rfl, rfl⟩ | ⟨rd, imm, rfl, rfl⟩ | ⟨imm, rfl, rfl⟩ | ⟨rd, rs2, rfl, rfl⟩ | ⟨rd, rs2, rfl, rfl⟩ |
    ⟨rd, rs2, rfl, rfl⟩ | ⟨rd, rs2, rfl, rfl⟩ | ⟨rd, imm, rfl, rfl⟩ | ⟨rd, k, rfl, rfl⟩ | ⟨rd, k, rfl, rfl⟩ |
    ⟨rd, k, rfl, rfl⟩)
  all_goals refine next_withPc_of_setAdvance rfl rfl ?_
  · rfl -- C.ADD
  · exact BitVec.zero_add _ -- C.MV
  · rw [sext12_signExtend (by decide), sext6] -- C.ADDI
  · exact (BitVec.zero_add _).trans (sext12_signExtend (by decide) imm) -- C.LI
  · exact upperImm_signExtend imm -- C.LUI
  · rw [sext12_setWidth (by decide), addi4spnImm] -- C.ADDI4SPN
  · rw [sext12_signExtend (by decide), addi16spImm] -- C.ADDI16SP
  · rfl -- C.SUB
  · rfl -- C.XOR
  · rfl -- C.OR
  · rfl -- C.AND
  · rw [sext12_signExtend (by decide), sext6] -- C.ANDI
  · rfl -- C.SLLI
  · rfl -- C.SRLI
  · rfl -- C.SRAI

/-- Settles O27: the scaled immediates are those of `signExtend_append_zero` and `setWidth_append_zero_two`; the shifts are
O13's. -/
theorem compressedResults : Obligations.CompressedResults := by
  intro s
  simp only [← sext6_eq_ofInt]
  refine ⟨fun rd rs2 => ⟨computes_of_setAdvance rfl rfl, computes_of_setAdvance rfl rfl⟩,
    fun rd imm => ⟨computes_of_setAdvance rfl rfl, computes_of_setAdvance rfl rfl, computes_of_setAdvance rfl ?cLui⟩,
    fun rd imm => computes_of_setAdvance rfl ?cAddi4spn, fun imm => computes_of_setAdvance rfl ?cAddi16sp,
    fun rd rs2 => ⟨computes_of_setAdvance rfl rfl, computes_of_setAdvance rfl rfl, computes_of_setAdvance rfl rfl,
      computes_of_setAdvance rfl rfl⟩,
    fun rd imm => computes_of_setAdvance rfl rfl, fun rd k => computes_of_setAdvance rfl (shiftLeft_eq_ofNat _ _),
    fun rd k => ⟨computes_of_setAdvance rfl (shiftRight_eq_ofNat _ _),
      computes_of_setAdvance rfl (shiftRightArith_eq_ofInt _ _)⟩,
    goesTo_of_retire rfl⟩
  case cLui => exact signExtend_append_zero 12 (by decide) imm
  case cAddi4spn => exact congrArg (s.reg 2 + ·) (setWidth_append_zero_two imm)
  case cAddi16sp => exact congrArg (s.reg 2 + ·) (signExtend_append_zero 4 (by decide) imm)

/-- Settles O29: each target is the shared offset of its format, in the words of the statement. -/
theorem compressedJumpResults : Obligations.CompressedJumpResults := by
  intro s
  simp only [← appendZero_signExtend_eq_ofInt (n := 8) (by decide), ← appendZero_signExtend_eq_ofInt (n := 11) (by decide),
    ← evenTarget_eq_ofNat]
  refine ⟨fun rs1 imm => ⟨goesTo_of_branch rfl beq_iff_eq, ?cBnez⟩,
    fun imm => ⟨goesTo_of_retire rfl, links_of_jumpLink rfl rfl⟩,
    fun rs1 => ⟨goesTo_of_retire rfl, links_of_jumpLink rfl rfl⟩⟩
  case cBnez =>
    rw [← ite_not]
    exact goesTo_of_branch rfl bne_iff_ne

/-- Settles O30: the access is the one `loadAccess` or `storeAccess` names, at the offset in words (30 R198). -/
theorem compressedAccessResults : Obligations.CompressedAccessResults := by
  intro s
  simp only [← readLE_word, ← setWidth_append_zero_two]
  constructor
  case left =>
    rintro rd rs1 imm _ rfl
    exact ⟨fun loads => computes_of_loadsMemory rfl loads rfl, stores_of_storesMemory rfl⟩
  case right =>
    rintro r imm _ rfl
    exact ⟨fun loads => computes_of_loadsMemory rfl loads rfl, stores_of_storesMemory rfl⟩

end Sys2Proof.Machine


/-! SUPPORT. Taking an exception and returning from a trap or an NMI (60 R411 to R440, R474): the table of the exceptions,
and the two returns of MRET (`ExceptionEntry`, `ReturnFromTrap`, `ReturnFromNmi`). -/

namespace Sys2Proof.Machine

/-- Settles O33: the outcome of raising an exception is `trapEntry_outcome`, and the codes are those of the table. -/
theorem exceptionEntry : Obligations.ExceptionEntry :=
  ⟨fun s e => ⟨_, raise_eq s e, trapEntry_outcome s e⟩, fun _ => ⟨⟨rfl, rfl⟩, ⟨rfl, rfl⟩, ⟨rfl, rfl⟩, ⟨rfl, rfl⟩,
    ⟨rfl, rfl⟩, ⟨rfl, rfl⟩, ⟨rfl, rfl⟩, ⟨rfl, rfl⟩, ⟨rfl, rfl⟩⟩⟩

/-! ### MRET -/

theorem exec_mret_machine {s : State} (machine : s.priv = .machine) :
    exec .mret s = .next (if s.inNmi then s.nmiReturn else s.trapReturn) := by
  show execMret s = _
  rw [execMret, if_neg (by simp [machine])]
  split <;> rfl

theorem exec_mret_user {s : State} (user : s.priv = .user) : exec .mret s = raiseIllegal s .mret :=
  if_pos (by simp [user])

/-- Settles O35. -/
theorem returnFromTrap : Obligations.ReturnFromTrap := by
  intro s
  refine ⟨fun machine outside => ?_, fun user => raises_of_raiseIllegal (exec_mret_user user)⟩
  rw [exec_mret_machine machine, if_neg (by simp [outside])]
  rfl

theorem inNmi_iff (s : State) : s.inNmi = true ↔ s.csr.cause.interrupt = false ∧ s.csr.cause.code = 24 := by
  simp [State.inNmi]

/-- Only `any_legal` draws an open value when MPP is written (log 17). -/
theorem mppDraws_eq_false {s : State} {b : BitVec 2}
    (h : b = 3#2 ∨ b = 0#2 ∧ s.cfg.hasUmode = true ∨ s.cfg.mppIllegalWrite ≠ .anyLegal) : s.mppDraws b = false := by
  rcases h with rfl | ⟨rfl, user⟩ | other
  · rfl
  · simp [State.mppDraws, user]
  · simp [State.mppDraws, other]

/-- Settles O36: what MPP takes of the saved value is what a write of that value leaves. -/
theorem returnFromNmi : Obligations.ReturnFromNmi := by
  intro s machine interrupt code
  refine ⟨s.nmiReturn, ?exec, ?frame, fun saved => ⟨?_, ?_⟩, fun saved user => ⟨?_, ?_⟩,
    fun illegal => ⟨legalMpp_illegal illegal, fun fixed => if_neg ?_⟩⟩
  case exec => rw [exec_mret_machine machine, if_pos ((inNmi_iff s).2 ⟨interrupt, code⟩)]
  case frame =>
    have bits : (mppAfterReturn s.cfg).bits = if s.cfg.hasUmode then 0 else 3 := by
      rw [mppAfterReturn]; split <;> rfl
    rw [← bits]
    rfl
  · exact if_pos saved
  · exact if_neg (by simp [mppDraws_eq_false (.inl saved)])
  · show s.legalMpp s.csr.nmi.mpp = .user
    simp [State.legalMpp, saved, user]
  · exact if_neg (by simp [mppDraws_eq_false (.inr (.inl ⟨saved, user⟩))])
  · simp [mppDraws_eq_false (.inr (.inr fixed))]

end Sys2Proof.Machine


/-! SUPPORT. What changes the mode, and what user mode can change: both from the kinds of next state of `exec_effect`. The
PMP tells no two bytes of one word apart, so an aligned store is checked for each of its bytes
(`PrivilegeChanges`, `UserModeConfined`). -/

namespace Sys2Proof.Machine

/-! ### The mode -/

theorem csrExchange_priv (s : State) (r : Csr) (rd : Reg) (op : CsrOp) (imm : Bool) (v : Word) (performs : Bool) :
    (s.csrExchange r rd op imm v performs).priv = s.priv := by
  rw [(csrExchange_result s r rd op imm v performs).rest]

theorem claimNext_priv (s : State) (rd : Reg) : (s.claimNext rd).priv = s.priv := by
  unfold State.claimNext
  split <;> simp

/-- A write the access primitive let through: a store to memory, or with machine privilege a write of the CLINT or the
CLIC. -/
theorem memWrite_ok {s u : State} {a v : Word} {size : AccessSize} (h : s.memWrite a size v = .ok u) :
    s.storesMemory a size ∧ u = s.storeBytes a size v ∨
      s.dataPriv = .machine ∧ ∃ c d, u = { s with clint := c, clic := d } := by
  rcases memWrite_cases s a size v with ⟨stores, e⟩ | ⟨_, _, _, machine, ⟨t, device, e⟩ | ⟨_, e⟩⟩ | ⟨_, e⟩ | ⟨_, e⟩ <;>
    rw [e] at h <;> cases h
  · exact .inl ⟨stores, rfl⟩
  · obtain ⟨r, _, rfl⟩ := Option.map_eq_some_iff.1 device
    exact .inr ⟨machine, tcipStore_changes s r size v⟩

theorem memWrite_priv {s u : State} {a v : Word} {size : AccessSize} (h : s.memWrite a size v = .ok u) :
    u.priv = s.priv := by
  rcases memWrite_ok h with ⟨_, rfl⟩ | ⟨_, c, d, rfl⟩ <;> rfl

/-- Only an exception and MRET change the mode. -/
theorem effect_priv {i : Instr} {s t : State} (h : ExecEffect i s t) :
    t.priv = s.priv ∨ (∃ e, t = s.trapEntry e) ∨ i = .mret ∧ s.priv = .machine ∧ t.priv = s.csr.status.mpp := by
  cases h with
  | trap e => exact .inr (.inl ⟨e, rfl⟩)
  | trapReturn machine is => exact .inr (.inr ⟨is, machine, rfl⟩)
  | nmiReturn machine is => exact .inr (.inr ⟨is, machine, rfl⟩)
  | compute rd v d => exact .inl (by simp)
  | jump rd v target => exact .inl (by simp)
  | store a size v n u done => exact .inl (memWrite_priv (u := u) done)
  | cache c l => exact .inl rfl
  | debug => exact .inl rfl
  | wait => exact .inl rfl
  | mnxti _ rd op v => exact .inl (claimNext_priv _ rd)
  | scratch _ swap rd v => exact .inl (by simp [scratchSwap_changes])
  | csr _ r rd op imm v performs => exact .inl (csrExchange_priv s r rd op imm v performs)

/-- Settles O49: an exception either locks up, keeping the mode, or is taken in machine mode. -/
theorem privilegeChanges : Obligations.PrivilegeChanges := by
  intro s t i next
  rcases effect_priv (exec_effect next) with same | ⟨e, rfl⟩ | mret
  · exact .inl same
  · have outcome := trapEntry_outcome s e
    rcases trapEntry_cases s e with ⟨_, locked⟩ | ⟨_, taken⟩
    · exact .inl (by rw [locked]; rfl)
    · exact .inr (.inl ⟨by rw [taken]; rfl, _, _, outcome⟩)
  · exact .inr (.inr mret)

/-! ### One word, one decision of the PMP -/

theorem PmpEntry.hits_sameWord (e : PmpEntry) {a b : Word} (word : a.toNat / 4 = b.toNat / 4) : e.hits a = e.hits b := by
  have shifted : a >>> 2 = b >>> 2 := by
    apply BitVec.eq_of_toNat_eq
    rwa [BitVec.toNat_ushiftRight, BitVec.toNat_ushiftRight, Nat.shiftRight_eq_div_pow, Nat.shiftRight_eq_div_pow]
  have masked : a &&& 0xFFFFFFFC#32 = b &&& 0xFFFFFFFC#32 := by
    apply BitVec.eq_of_toNat_eq
    rw [wordAddress_toNat, wordAddress_toNat, word]
  have range : (pmpBound e.below ≤ a ∧ a < pmpBound e.addr) ↔ (pmpBound e.below ≤ b ∧ b < pmpBound e.addr) := by
    rw [BitVec.le_def, BitVec.lt_def, BitVec.le_def, BitVec.lt_def, pmpBound_toNat, pmpBound_toNat]
    omega
  have mode : pmpMode e.cfg = 0#2 ∨ pmpMode e.cfg = 1#2 ∨ pmpMode e.cfg = 2#2 ∨ pmpMode e.cfg = 3#2 := by
    generalize pmpMode e.cfg = m
    revert m
    decide
  rcases mode with off | tor | na4 | napot
  · rw [PmpEntry.hits_off off, PmpEntry.hits_off off]
  · rw [Bool.eq_iff_iff, PmpEntry.hits_tor tor, PmpEntry.hits_tor tor, range]
  · rw [Bool.eq_iff_iff, PmpEntry.hits_na4 na4, PmpEntry.hits_na4 na4, masked]
  · rw [Bool.eq_iff_iff, PmpEntry.hits_napot napot, PmpEntry.hits_napot napot, shifted]

theorem pmpScan_sameWord (p : Priv) (kind : AccessKind) {a b : Word} (word : a.toNat / 4 = b.toNat / 4)
    (l : List PmpEntry) : pmpScan p kind a l = pmpScan p kind b l := by
  induction l with
  | nil => rfl
  | cons e l ih => rw [pmpScan, pmpScan, e.hits_sameWord word, ih]

theorem pmpAllows_sameWord (s : State) (p : Priv) (kind : AccessKind) {a b : Word} (word : a.toNat / 4 = b.toNat / 4) :
    s.pmpAllows p kind a = s.pmpAllows p kind b := by
  rw [State.pmpAllows, State.pmpAllows, pmpScan_sameWord p kind word]

theorem inTcip_sameWord {a b : Word} (word : a.toNat / 4 = b.toNat / 4) : inTcip a = inTcip b := by
  rw [Bool.eq_iff_iff, inTcip_iff, inTcip_iff]
  omega

/-- The bytes of an aligned access lie in one word. -/
theorem word_of_aligned {a : Word} {size : AccessSize} (align : aligned a size = true) {k : Nat} (hk : k < size.bytes) :
    (a + BitVec.ofNat 32 k).toNat / 4 = a.toNat / 4 := by
  have multiple := (aligned_iff_mod a size).1 align
  have bound := a.isLt
  rw [BitVec.toNat_add, BitVec.toNat_ofNat]
  cases size <;> simp only [AccessSize.bytes] at multiple hk <;> omega

/-- A byte that a store to memory changes is one the PMP lets the store reach, outside the TCIP region. -/
theorem storeBytes_confined {s : State} {a v : Word} {size : AccessSize} (stores : s.storesMemory a size) {b : Word}
    (changed : (s.storeBytes a size v).byteAt b ≠ s.byteAt b) :
    s.pmpAllows s.dataPriv .store b = true ∧ inTcip b = false := by
  obtain ⟨align, allowed, outside, _⟩ := stores
  have inside : ∃ k, k < size.bytes ∧ b = a + BitVec.ofNat 32 k := by
    by_contra none
    exact changed (Memory.read_writeLE_other s.mem a b _ v fun k hk e => none ⟨k, hk, e⟩)
  obtain ⟨k, hk, rfl⟩ := inside
  have word := word_of_aligned align hk
  exact ⟨(pmpAllows_sameWord s _ _ word).trans allowed, (inTcip_sameWord word).trans outside⟩

/-! ### User mode -/

theorem KeepsSystem.privileged {s t : State} (h : KeepsSystem s t) : KeepsPrivileged s t :=
  { h with }

/-- What an instruction in user mode leaves as it was unless it raises or stores: the privileged state, the devices and
memory. -/
structure UserFrame (s t : State) : Prop where
  privileged : KeepsPrivileged s t
  clint : t.clint = s.clint
  clic : t.clic = s.clic
  mem : t.mem = s.mem

theorem UserFrame.setReg_retire (s : State) (rd : Reg) (v pc : Word) :
    UserFrame s ((s.setReg rd v).retire pc) :=
  ⟨(KeepsSystem.setReg_retire s rd v pc).privileged, by simp, by simp, by simp⟩

/-- Everything an instruction can do in user mode: CSR accesses, MRET and WFI raise there. -/
theorem effect_user {i : Instr} {s t : State} (user : s.priv = .user) (h : ExecEffect i s t) :
    UserFrame s t ∨ (∃ e, t = s.trapEntry e) ∨
      ∃ a size v n u, s.memWrite a size v = .ok u ∧ t = u.advance n := by
  have notMachine : s.priv ≠ .machine := by simp [user]
  cases h with
  | compute rd v d => exact .inl (.setReg_retire s rd v _)
  | jump rd v target => exact .inl (.setReg_retire s rd v _)
  | trap e => exact .inr (.inl ⟨e, rfl⟩)
  | store a size v n u done => exact .inr (.inr ⟨a, size, v, n, u, done, rfl⟩)
  | cache c l => exact .inl ⟨by constructor <;> rfl, rfl, rfl, rfl⟩
  | debug => exact .inl ⟨by constructor <;> rfl, rfl, rfl, rfl⟩
  | trapReturn machine => exact absurd machine notMachine
  | nmiReturn machine => exact absurd machine notMachine
  | wait machine => exact absurd machine notMachine
  | mnxti machine => exact absurd machine notMachine
  | scratch machine => exact absurd machine notMachine
  | csr machine => exact absurd machine notMachine

/-- Settles O48: only a store reaches the devices, with machine privilege for its data accesses, or memory, where the PMP
lets it. -/
theorem userModeConfined : Obligations.UserModeConfined := by
  intro s t i user next
  rcases effect_user user (exec_effect next) with keeps | ⟨e, rfl⟩ | ⟨a, size, v, n, u, done, rfl⟩
  · exact ⟨.inl keeps.privileged, fun _ => ⟨keeps.clint, keeps.clic⟩,
      fun a changed => absurd (by rw [State.byteAt, keeps.mem]; rfl) changed⟩
  · exact ⟨.inr ⟨_, _, trapEntry_outcome s e⟩, fun _ => ⟨by simp, by simp⟩,
      fun a changed => absurd (by simp [State.byteAt]) changed⟩
  · rcases memWrite_ok done with ⟨stores, rfl⟩ | ⟨machine, c, d, rfl⟩
    · exact ⟨.inl (by constructor <;> simp), fun _ => ⟨by simp, by simp⟩, fun b => storeBytes_confined stores⟩
    · refine ⟨.inl (by constructor <;> rfl), fun userData => ?_, fun b changed => absurd rfl changed⟩
      rw [machine] at userData
      cases userData

end Sys2Proof.Machine


/-! SUPPORT. Arbitration, levels and the conditions on which an interrupt is taken (60 R444 to R446): the fold over the
candidates keeps one that every candidate so far yields to (`InterruptSelection`). -/

namespace Sys2Proof.Machine

/-! ### Arbitration -/

/-- `y` yields to `x`: a smaller CLICINTCTL, or the same and no larger id (60 R445). -/
def ClicSource.YieldsTo (y x : ClicSource) : Prop := y.ctl < x.ctl ∨ y.ctl = x.ctl ∧ y.id ≤ x.id

theorem ClicSource.yieldsTo_refl (x : ClicSource) : x.YieldsTo x := .inr ⟨rfl, Nat.le_refl _⟩

theorem ClicSource.YieldsTo.trans {x y z : ClicSource} (h : x.YieldsTo y) (k : y.YieldsTo z) : x.YieldsTo z := by
  unfold ClicSource.YieldsTo at h k ⊢
  simp only [BitVec.lt_def, ← BitVec.toNat_inj] at h k ⊢
  omega

theorem ClicSource.yieldsTo_of_not {x y : ClicSource} (h : ¬ x.YieldsTo y) : y.YieldsTo x := by
  unfold ClicSource.YieldsTo at h ⊢
  simp only [BitVec.lt_def, ← BitVec.toNat_inj] at h ⊢
  omega

/-- One comparison keeps one of the two, to which both yield. -/
theorem arbitrate_some (b x : ClicSource) :
    ∃ w, arbitrate (some b) x = some w ∧ (w = b ∨ w = x) ∧ b.YieldsTo w ∧ x.YieldsTo w := by
  by_cases h : b.YieldsTo x
  · exact ⟨x, if_pos h, .inr rfl, h, x.yieldsTo_refl⟩
  · exact ⟨b, if_neg h, .inl rfl, b.yieldsTo_refl, ClicSource.yieldsTo_of_not h⟩

theorem foldl_arbitrate_some (l : List ClicSource) (b : ClicSource) :
    ∃ w, l.foldl arbitrate (some b) = some w ∧ (w = b ∨ w ∈ l) ∧ b.YieldsTo w ∧ ∀ y ∈ l, y.YieldsTo w := by
  induction l generalizing b with
  | nil => exact ⟨b, rfl, .inl rfl, b.yieldsTo_refl, nofun⟩
  | cons x l ih =>
    obtain ⟨c, first, fromTwo, bc, xc⟩ := arbitrate_some b x
    obtain ⟨w, rest, fromRest, cw, others⟩ := ih c
    refine ⟨w, by rw [List.foldl_cons, first, rest], ?_, bc.trans cw, ?_⟩
    · rcases fromRest with rfl | inRest
      · exact fromTwo.imp id fun same => List.mem_cons.2 (.inl same)
      · exact .inr (List.mem_cons_of_mem x inRest)
    · intro y hy
      rcases List.mem_cons.1 hy with rfl | hy
      · exact xc.trans cw
      · exact others y hy

/-- The winner of a list is one of it to which all yield; only the empty list has none. -/
theorem foldl_arbitrate (l : List ClicSource) : l = [] ∧ l.foldl arbitrate none = none ∨
    ∃ w, l.foldl arbitrate none = some w ∧ w ∈ l ∧ ∀ y ∈ l, y.YieldsTo w := by
  cases l with
  | nil => exact .inl ⟨rfl, rfl⟩
  | cons x l =>
    obtain ⟨w, winner, fromList, first, others⟩ := foldl_arbitrate_some l x
    refine .inr ⟨w, winner, List.mem_cons.2 fromList, fun y hy => ?_⟩
    rcases List.mem_cons.1 hy with rfl | hy
    · exact first
    · exact others y hy

theorem isCandidate_iff (s : State) (x : ClicSource) :
    s.isCandidate x = true ↔ s.pending x = true ∧ x.ie = true ∧ 0#8 < x.ctl := by
  simp [State.isCandidate, and_assoc]

theorem presented_of_some {s : State} {x : ClicSource} (h : s.presented = some x) :
    x ∈ s.clic.sources ∧ s.isCandidate x = true ∧
      ∀ y ∈ s.clic.sources, s.isCandidate y = true → y.YieldsTo x := by
  rcases foldl_arbitrate (s.clic.sources.filter s.isCandidate) with ⟨_, noWinner⟩ | ⟨w, winner, fromList, others⟩
  · rw [State.presented, noWinner] at h
    cases h
  · rw [State.presented, winner] at h
    cases h
    obtain ⟨listed, candidate⟩ := List.mem_filter.1 fromList
    exact ⟨listed, candidate, fun y hy k => others y (List.mem_filter.2 ⟨hy, k⟩)⟩

theorem presented_eq_none_iff (s : State) :
    s.presented = none ↔ ∀ y ∈ s.clic.sources, ¬ s.isCandidate y = true := by
  rw [← List.filter_eq_nil_iff]
  rcases foldl_arbitrate (s.clic.sources.filter s.isCandidate) with ⟨empty, noWinner⟩ | ⟨w, winner, fromList, _⟩
  · exact iff_of_true noWinner empty
  · refine iff_of_false (by rw [State.presented, winner]; simp) fun empty => ?_
    rw [empty] at fromList
    cases fromList

/-! ### Levels -/

/-- Setting the low `k` bits: what is above them, then ones. -/
theorem or_two_pow_sub_one (n k : Nat) : n ||| (2 ^ k - 1) = n / 2 ^ k * 2 ^ k + (2 ^ k - 1) := by
  have low : 2 ^ k - 1 < 2 ^ k := Nat.sub_lt (Nat.two_pow_pos k) Nat.one_pos
  rw [Nat.mul_comm, Nat.two_pow_add_eq_or_of_lt low]
  refine Nat.eq_of_testBit_eq fun i => ?_
  simp only [Nat.testBit_or, Nat.testBit_two_pow_sub_one, Nat.testBit_two_pow_mul, Nat.testBit_div_two_pow]
  by_cases h : i < k
  · simp [h]
  · simp [h, Nat.le_of_not_lt h]

/-- The level: CLICINTCTL with ones below its top `n` bits (60 R444). -/
theorem levelOf_toNat (s : State) (x : ClicSource) {n : Nat} (h : n = min s.clic.nlbits.toNat s.cfg.ctlBits.toNat) :
    (s.levelOf x).toNat = x.ctl.toNat / 2 ^ (8 - n) * 2 ^ (8 - n) + (2 ^ (8 - n) - 1) := by
  have implemented : s.cfg.ctlBits.toNat ≤ 5 := by cases s.cfg.ctlBits <;> decide
  have ones : (0xFF#8 >>> n).toNat = 2 ^ (8 - n) - 1 := by
    have few : n ≤ 5 := h ▸ Nat.le_trans (Nat.min_le_right _ _) implemented
    clear h
    revert n
    decide
  rw [State.levelOf, ← h, BitVec.toNat_or, ones, or_two_pow_sub_one]

theorem levelOf_mono (s : State) {x y : ClicSource} (h : x.ctl ≤ y.ctl) : s.levelOf x ≤ s.levelOf y := by
  rw [BitVec.le_def, levelOf_toNat s x rfl, levelOf_toNat s y rfl]
  exact Nat.add_le_add_right (Nat.mul_le_mul_right _ (Nat.div_le_div_right h)) _

/-! ### Requests -/

theorem interruptRequest_eq_some_iff (s : State) (x : ClicSource) :
    s.interruptRequest = some x ↔ s.presented = some x ∧ s.clic.mth < s.levelOf x := by
  unfold State.interruptRequest
  cases s.presented with
  | none => simp
  | some y =>
    simp only [Option.ite_none_right_eq_some, Option.some.injEq]
    constructor
    · rintro ⟨above, rfl⟩
      exact ⟨rfl, above⟩
    · rintro ⟨rfl, above⟩
      exact ⟨above, rfl⟩

theorem interruptsEnabled_iff (s : State) : s.interruptsEnabled = true ↔
    s.csr.status.mie = true ∨ s.cfg.uModeIgnoresMie = true ∧ s.priv = .user := by
  simp [State.interruptsEnabled]

theorem interruptToTake_eq_some_iff (s : State) (x : ClicSource) : s.interruptToTake = some x ↔
    s.interruptRequest = some x ∧ s.csr.mil < s.levelOf x ∧ s.interruptsEnabled = true ∧ ¬ s.inNmi = true := by
  unfold State.interruptToTake
  cases s.interruptRequest with
  | none => simp
  | some y =>
    simp only [Bool.and_eq_true, decide_eq_true_eq, Bool.not_eq_true', Bool.not_eq_true, and_assoc,
      Option.ite_none_right_eq_some, Option.some.injEq]
    constructor
    · rintro ⟨level, enabled, outside, rfl⟩
      exact ⟨rfl, level, enabled, outside⟩
    · rintro ⟨rfl, level, enabled, outside⟩
      exact ⟨level, enabled, outside, rfl⟩

/-- Settles O51, from arbitration, the formula of the level, and the conditions of a request and of taking it. -/
theorem interruptSelection : Obligations.InterruptSelection := by
  intro s
  refine ⟨fun x presented => ?winner, ?none, fun x y => levelOf_mono s, fun x n => levelOf_toNat s x, fun x => ?taken⟩
  case winner =>
    obtain ⟨listed, candidate, others⟩ := presented_of_some presented
    exact ⟨listed, (isCandidate_iff s x).1 candidate,
      fun y hy pending enabled positive => others y hy ((isCandidate_iff s y).2 ⟨pending, enabled, positive⟩)⟩
  case none =>
    rw [presented_eq_none_iff]
    simp only [isCandidate_iff]
  case taken =>
    rw [interruptToTake_eq_some_iff, interruptRequest_eq_some_iff, interruptsEnabled_iff, inNmi_iff, and_assoc]

end Sys2Proof.Machine


/-! SUPPORT. The interrupt sources: their signals, the pins, and what sampling leaves pending (60 R443, R456 to R460)
(`SourceSampling`). -/

namespace Sys2Proof.Machine

/-- The lines of the external interrupts are the sources from id 16 on (60 R460). -/
theorem sourceSignal_line (s : State) (k : Nat) : s.sourceSignal (16 + k) = s.inputs.lines.getLsbD k := by
  rw [State.sourceSignal, if_neg (by omega), if_neg (by omega), if_neg (by omega), Nat.add_sub_cancel_left]

theorem sourceSignal_timer_iff (s : State) :
    s.sourceSignal 7 = true ↔ s.clint.mtimecmp.toNat ≤ s.inputs.sysCnt.toNat := by
  show BitVec.ule _ _ = true ↔ _
  rw [BitVec.ule, decide_eq_true_eq]

theorem countOn_eq (old new : BitVec 64) : countOn old new =
    if old.toNat ≤ new.toNat ∨ old.toNat = 2 ^ 64 - 1 ∧ new = 0 then new else old := by
  have last : old = BitVec.allOnes 64 ↔ old.toNat = 2 ^ 64 - 1 := by
    rw [← BitVec.toNat_inj, BitVec.toNat_allOnes]
  simp only [countOn, BitVec.le_def, last]

/-! ### One source -/

theorem isEdge_iff_trig (x : ClicSource) : x.isEdge = true ↔ x.trig = 1#2 ∨ x.trig = 3#2 := by
  show x.trig.getLsbD 0 = true ↔ _
  generalize x.trig = t
  revert t
  decide

theorem sample_level {x : ClicSource} (level : x.trig.getLsbD 0 = false) (now : Bool) :
    (x.sample now).edge = false ∧ (x.sample now).held = false ∧ (x.sample now).ip = now := by
  have notEdge : x.isEdge = false := level
  simp [ClicSource.sample, ClicSource.seesEdge, notEdge]

theorem sample_rising {x : ClicSource} (rising : x.trig = 1#2) (now : Bool) :
    (x.sample now).edge = (!x.prev && now) ∧ (x.sample now).held = x.ip ∧
      (x.sample now).ip = (x.ip || (x.sample now).edge) := by
  have edge := (isEdge_iff_trig x).2 (.inl rising)
  simp [ClicSource.sample, ClicSource.seesEdge, edge, rising]

theorem sample_falling {x : ClicSource} (falling : x.trig = 3#2) (now : Bool) :
    (x.sample now).edge = (x.prev && !now) ∧ (x.sample now).held = x.ip ∧
      (x.sample now).ip = (x.ip || (x.sample now).edge) := by
  have edge := (isEdge_iff_trig x).2 (.inr falling)
  simp [ClicSource.sample, ClicSource.seesEdge, edge, falling]

/-- A level source is pending as its signal is. -/
theorem pending_level (s : State) {x : ClicSource} (level : x.trig.getLsbD 0 = false) :
    s.pending x = s.sourceSignal x.id :=
  if_neg (ne_true_of_eq_false level)

/-- An edge source is pending as its bit is. -/
theorem pending_edge (s : State) {x : ClicSource} (edge : x.trig = 1#2 ∨ x.trig = 3#2) : s.pending x = x.ip :=
  if_pos ((isEdge_iff_trig x).2 edge)

/-- Settles O50: sampling is source by source, and each trigger mode has its own rule. -/
theorem sourceSampling : Obligations.SourceSampling := by
  intro s
  refine ⟨⟨rfl, sourceSignal_timer_iff s, rfl, fun k _ => sourceSignal_line s k⟩,
    fun i => ⟨_, rfl, rfl, countOn_eq _ _⟩, s.clic.sources.map fun x => x.sample (s.sourceSignal x.id), rfl, ?sources⟩
  case sources =>
    refine List.forall₂_map_right_iff.2 (List.forall₂_same.2 fun x _ => ?_)
    refine ⟨rfl, fun level => sample_level level _, fun rising => sample_rising rising _,
      fun falling => sample_falling falling _, fun level => pending_level s.sample level, fun rising => ?_,
      fun falling => ?_⟩
    · obtain ⟨edge, _, ip⟩ := sample_rising rising (s.sourceSignal x.id)
      rw [← edge, ← ip]
      exact pending_edge s.sample (.inl rising)
    · obtain ⟨edge, _, ip⟩ := sample_falling falling (s.sourceSignal x.id)
      rw [← edge, ← ip]
      exact pending_edge s.sample (.inr falling)

end Sys2Proof.Machine


/-! SUPPORT. The order of a boundary (60 R415): what the step is in debug mode, locked up, asleep, with an NMI or an interrupt to
take, and else with the instruction at the pc (`NmiEntryStep`, `WaitingSteps`, `InterruptEntryStep`,
`StepRunsDecodedInstruction`). -/

namespace Sys2Proof.Machine

/-! ### The hart's turn -/

/-- An NMI is pending and none is being handled: it is taken at this boundary (60 R470). -/
def State.takesNmi (s : State) : Bool := s.nmiPending && !s.inNmi

theorem takesNmi_eq_true {s : State} (pending : s.nmiPending = true)
    (outside : ¬ (s.csr.cause.interrupt = false ∧ s.csr.cause.code = 24)) : s.takesNmi = true := by
  rw [← inNmi_iff, Bool.not_eq_true] at outside
  rw [State.takesNmi, pending, outside]
  rfl

theorem takesNmi_eq_false {s : State} (h : s.nmiPending = false ∨ s.inNmi = true) : s.takesNmi = false := by
  rcases h with h | h <;> rw [State.takesNmi, h]
  · rfl
  · exact Bool.and_false _

theorem hartTurn_debug {s : State} (debug : s.debugMode = true) : s.hartTurn = .next s := if_pos debug

section NoDebug

variable {s : State} (noDebug : s.debugMode = false)

include noDebug

theorem hartTurn_locked (locked : s.locked = true) :
    s.hartTurn = .next (if s.takesNmi then { s.nmiEntry with lockupNmi := true } else s) := by
  rw [State.hartTurn, if_neg (by simp [noDebug]), if_pos locked]
  rfl

theorem hartTurn_asleep (unlocked : s.locked = false) (asleep : s.sleeping = true) (quiet : s.wakes = false) :
    s.hartTurn = .next s := by
  rw [State.hartTurn, if_neg (by simp [noDebug]), if_neg (by simp [unlocked]), if_pos (by simp [asleep, quiet])]

theorem hartTurn_boundary (unlocked : s.locked = false) (goesOn : s.sleeping = true → s.wakes = true) :
    s.hartTurn = s.wakeUp.boundary := by
  rw [State.hartTurn, if_neg (by simp [noDebug]), if_neg (by simp [unlocked]), if_neg]
  simpa using goesOn

end NoDebug

theorem wakeUp_awake {s : State} (awake : s.sleeping = false) : s.wakeUp = s := if_neg (ne_true_of_eq_false awake)

theorem wakeUp_asleep {s : State} (asleep : s.sleeping = true) : s.wakeUp =
    { s with sleeping := false, csr := { s.csr with ex := { s.csr.ex with lpmdWoken := true } } } := if_pos asleep

/-- What wakes the core, by the value of WFE (60 R511). -/
theorem wakes_iff (s : State) : s.wakes = true ↔ s.nmiPending = true ∨
    s.csr.ex.wfe = true ∧ ((∃ x, s.interruptRequest = some x) ∨ s.inputs.extEvent = true) ∨
    s.csr.ex.wfe = false ∧ ∃ x, s.interruptRequest = some x ∧ s.csr.mil < s.levelOf x := by
  unfold State.wakes
  rw [Bool.or_eq_true]
  refine or_congr_right ?_
  cases s.interruptRequest with
  | none => simp
  | some x => cases s.csr.ex.wfe <;> simp

/-- Settles O54: the four turns of the hart that take nothing. -/
theorem waitingSteps : Obligations.WaitingSteps := by
  rintro s _ wakes quiet rfl condition
  rw [← wakes_iff] at condition
  rw [step_quiet quiet, condition]
  refine ⟨fun debug => hartTurn_debug debug, fun noDebug lockup notNmi noNmi => ?locked,
    fun noDebug unlocked asleep noWake => hartTurn_asleep noDebug unlocked asleep (by simpa using noWake),
    fun noDebug unlocked asleep wake => ?wakes⟩
  case locked =>
    have locked : s.locked = true := by simp [State.locked, lockup, notNmi]
    rw [hartTurn_locked (s := s.sample) noDebug locked, takesNmi_eq_false noNmi]
    rfl
  case wakes =>
    rw [hartTurn_boundary (s := s.sample) noDebug unlocked fun _ => wake, wakeUp_asleep (s := s.sample) asleep]

/-! ### Taking an NMI -/

theorem boundary_nmi {s : State} (taken : s.takesNmi = true) : s.boundary = .next s.nmiEntry := if_pos taken

/-- Locked up or awake, the turn that takes an NMI enters its handler and remembers whether it came from the lockup. -/
theorem hartTurn_nmi {s : State} (noDebug : s.debugMode = false) (state : s.locked = true ∨ s.sleeping = false)
    (taken : s.takesNmi = true) :
    s.hartTurn = .next { s.nmiEntry with lockupNmi := s.locked || s.lockupNmi } := by
  cases locked : s.locked
  · have awake : s.sleeping = false := state.resolve_left (by simp [locked])
    rw [hartTurn_boundary noDebug locked (by simp [awake]), wakeUp_awake awake, boundary_nmi taken]
    rfl
  · rw [hartTurn_locked noDebug locked, if_pos taken]
    rfl

/-- Settles O53: the sampling leaves the mode of the core and MCAUSE as they were, and the rest is `hartTurn_nmi`. -/
theorem nmiEntryStep : Obligations.NmiEntryStep := by
  rintro s _ quiet noDebug state rfl pending outside
  rw [step_quiet quiet, hartTurn_nmi (s := s.sample) noDebug state (takesNmi_eq_true pending outside)]
  rfl

/-! ### Taking an interrupt -/

theorem boundary_interrupt {s : State} {x : ClicSource} (noNmi : s.takesNmi = false)
    (taken : s.interruptToTake = some x) : s.boundary = interruptEntry s x := by
  refine (if_neg (ne_true_of_eq_false noNmi)).trans ?_
  rw [taken]

/-- Acknowledging a source clears its pending bit if it is edge-triggered and saw no further edge (60 R451; log 15). -/
theorem setSource_acknowledge (s : State) (id : Nat) : s.setSource id ClicSource.acknowledge =
    { s with clic := { s.clic with
      sources := s.clic.sources.map fun y =>
        if y.id = id ∧ y.trig.getLsbD 0 = true then { y with ip := y.edge && y.held } else y } } := by
  have each : (fun y : ClicSource => if y.id = id then y.acknowledge else y) = fun y =>
      if y.id = id ∧ y.trig.getLsbD 0 = true then { y with ip := y.edge && y.held } else y := by
    funext y
    rw [ite_and]
    rfl
  rw [State.setSource, each]

theorem vectorAddress_eq (s : State) (id : Nat) :
    s.vectorAddress id = (s.csr.mtvt ++ 0#6) + BitVec.ofNat 32 (4 * id) := by
  rw [State.vectorAddress, BitVec.ofNat_mul]
  rfl

theorem vectorFetch_word {s : State} {a : Word} (outside : inTcip a = false) (answered : s.busError a .word .load = false) :
    s.vectorFetch a = some (s.wordAt a) := by
  rw [State.vectorFetch, if_neg (by simp [outside, answered]), readLE_word]

theorem vectorFetch_none {s : State} {a : Word} (h : inTcip a = true ∨ s.busError a .word .load = true) :
    s.vectorFetch a = none :=
  if_pos (by simpa using h)

theorem interruptEntry_direct {s : State} {x : ClicSource} (direct : x.shv = false) :
    interruptEntry s x = .next { s.enterInterrupt x with pc := s.trapVector } :=
  if_neg (ne_true_of_eq_false direct)

theorem interruptEntry_vectored {s : State} {x : ClicSource} {w : Word} (vectored : x.shv = true)
    (word : s.vectorFetch (s.vectorAddress x.id) = some w) :
    interruptEntry s x = .next { (s.enterInterrupt x).setSource x.id ClicSource.acknowledge with
      pc := w &&& 0xFFFFFFFE
      csr := { (s.enterInterrupt x).csr with cause := { (s.enterInterrupt x).csr.cause with minhv := false } } } := by
  rw [interruptEntry, if_pos vectored, word]
  rfl

theorem interruptEntry_refused {s : State} {x : ClicSource} (vectored : x.shv = true)
    (unread : s.vectorFetch (s.vectorAddress x.id) = none) : interruptEntry s x = .refused .vectorFetch := by
  rw [interruptEntry, if_pos vectored, unread]

/-- Settles O52: the step is the entry of the interrupt on the sampled state, which `shv` and the table word tell apart. -/
theorem interruptEntryStep : Obligations.InterruptEntryStep := by
  rintro s _ x quiet running rfl noNmi taken
  rw [step_running quiet running, boundary_interrupt (takesNmi_eq_false noNmi) taken]
  refine ⟨fun direct => interruptEntry_direct direct, fun vectored a address outside answered => ?vectored,
    fun vectored a address unread => ?refused⟩
  case vectored =>
    rw [← vectorAddress_eq] at address
    subst address
    rw [interruptEntry_vectored vectored (vectorFetch_word outside answered), setSource_acknowledge]
    rfl
  case refused =>
    rw [← vectorAddress_eq] at address
    subst address
    exact interruptEntry_refused vectored (vectorFetch_none unread)

/-! ### The instruction at the pc -/

theorem runInstruction_instr {s t : State} {code : Code} {i : Instr} (h : s.fetch = (.ok code, t))
    (decoded : decodeCode t.cfg code = .instr i) : s.runInstruction = exec i t := by
  simp [State.runInstruction, h, decoded]

theorem fetchHalf_cfg {s t : State} {a : Word} {h : Half} (ok : s.fetchHalf a = .ok (h, t)) : t.cfg = s.cfg := by
  obtain ⟨_, _, e⟩ := fetchHalf_changes ok
  rw [e]

section Fetched

variable {s u1 : State} {i : Instr} {h : Half} (executes : s.executes)
  (first : s.sample.fetchHalf s.sample.pc = .ok (h, u1))

include executes first

theorem step_instr16 (short : h.extractLsb' 0 2 ≠ 3#2) (decoded : decodeCode s.sample.cfg (.c16 h) = .instr i) :
    step s = exec i u1 := by
  rw [← fetchHalf_cfg first] at decoded
  rw [step_executes executes]
  exact runInstruction_instr (fetch_compressed first short) decoded

theorem step_instr32 {h2 : Half} {u2 : State} (long : h.extractLsb' 0 2 = 3#2)
    (second : u1.fetchHalf (s.sample.pc + 2) = .ok (h2, u2))
    (decoded : decodeCode s.sample.cfg (.c32 (h2 ++ h)) = .instr i) : step s = exec i u2 := by
  rw [← fetchHalf_cfg first, ← fetchHalf_cfg second] at decoded
  rw [step_executes executes]
  exact runInstruction_instr (fetch_word first long second) decoded

end Fetched

/-- Settles O55. A fetch that reads memory is one that answers memory's parcel and changes nothing. -/
theorem stepRunsDecodedInstruction : Obligations.StepRunsDecodedInstruction := by
  rintro s _ i h executes rfl
  refine ⟨?memory, fun u1 first => ⟨step_instr16 executes first,
    fun long h2 u2 second => step_instr32 executes first long second⟩⟩
  case memory =>
    rintro reads rfl
    have first := fetchHalf_memory reads
    exact ⟨step_instr16 executes first,
      fun long reads2 => step_instr32 executes first long (fetchHalf_memory reads2)⟩

end Sys2Proof.Machine


/-! SUPPORT. The words, halfwords and bytes of the CLINT and CLIC registers (60 R455 to R468): the register an address names,
what it reads, and what each width of store leaves in a source (`DeviceWordsRead`, `DeviceWordsWritten`). -/

namespace Sys2Proof.Machine

/-! ### The four byte registers of a source -/

/-- Byte `k` of the four of an id, at every width (60 R461). -/
theorem tcipReg?_sourceByte {id k : Nat} (h : id < 256) (hk : k < 4) (size : AccessSize) :
    tcipReg? (0xE0801000#32 + 4 * BitVec.ofNat 32 id + BitVec.ofNat 32 k) size = some (.source id k) := by
  have offset : (4 * BitVec.ofNat 32 id + BitVec.ofNat 32 k).toNat = 4 * id + k := by
    simp [BitVec.toNat_add, BitVec.toNat_mul]
    omega
  rw [BitVec.add_assoc]
  generalize 4 * BitVec.ofNat 32 id + BitVec.ofNat 32 k = o at offset
  have address : (0xE0801000#32 + o).toNat = 0xE0801000 + (4 * id + k) := by
    rw [BitVec.toNat_add, offset, BitVec.toNat_ofNat]
    omega
  have number : (o >>> 2).toNat = id := by
    rw [BitVec.toNat_ushiftRight, offset, Nat.shiftRight_eq_div_pow]
    omega
  have byte : ((0xE0801000#32 + o) &&& 3#32).toNat = k := by
    rw [BitVec.toNat_and, address]
    refine (Nat.and_two_pow_sub_one_eq_mod _ 2).trans ?_
    omega
  have inside : 0xE0801000#32 ≤ 0xE0801000#32 + o ∧ 0xE0801000#32 + o ≤ 0xE08013FF#32 := by
    rw [BitVec.le_def, BitVec.le_def, address, BitVec.toNat_ofNat, BitVec.toNat_ofNat]
    omega
  rw [tcipReg?, if_pos inside, add_sub_cancel_left, number, byte]

/-- A field is what a shift brings to the bottom. -/
theorem setWidth_shiftRight (v : Word) (p n : Nat) : (v >>> p).setWidth n = v.extractLsb' p n := by
  ext i hi
  simp

/-! ### Reads of a source -/

/-- With ids distinct, the source found for an id is the one that has it. -/
theorem find?_id_of_mem {l : List ClicSource} {x : ClicSource} (distinct : l.Pairwise fun y z => y.id ≠ z.id)
    (hx : x ∈ l) : l.find? (fun y => y.id == x.id) = some x := by
  induction l with
  | nil => cases hx
  | cons y l ih =>
    obtain ⟨head, tail⟩ := List.pairwise_cons.1 distinct
    rcases List.mem_cons.1 hx with rfl | hx
    · exact List.find?_cons_of_pos (beq_self_eq_true x.id)
    · rw [List.find?_cons_of_neg (by simpa using head x hx)]
      exact ih tail hx

theorem source?_absent {s : State} {id : Nat} (h : ∀ x ∈ s.clic.sources, x.id ≠ id) : s.source? id = none :=
  List.find?_eq_none.2 fun x hx => by simpa using h x hx

/-- CTL, ATTR, IE and IP of a source, field by field (60 R461, R465 to R468). -/
theorem sourceWord_eq_fields (s : State) (x : ClicSource) : s.sourceWord x =
    x.ctl ++ 3#2 ++ 0#3 ++ x.trig ++ BitVec.ofBool x.shv ++ 0#7 ++ BitVec.ofBool x.ie ++ 0#7 ++
      BitVec.ofBool (s.pending x) := by
  have mode : 0b11000#5 = 3#2 ++ 0#3 := by decide
  refine (placeField_word _).symm.trans (.trans ?_ (placeField_word _))
  simp only [State.sourceWord, ClicSource.attr, boolBit, mode, placeField_append, BitVec.or_assoc]

/-- An id below 256 reads its source's word, or 0 without a source, from any of its bytes on (D42). -/
theorem tcipRead_source {s : State} {id k : Nat} {w : Word} (h : id < 256) (hk : k < 4)
    (word : (s.source? id).elim 0 s.sourceWord = w) (size : AccessSize) :
    s.tcipRead (0xE0801000 + 4 * BitVec.ofNat 32 id + BitVec.ofNat 32 k) size = some (cutTo size (w >>> (8 * k))) := by
  have value : s.tcipValue (.source id k) = w >>> (8 * k) := by
    rw [← word, State.tcipValue]
    cases s.source? id with
    | none => exact BitVec.zero_ushiftRight.symm
    | some x => rfl
  exact (congrArg (Option.map _) (tcipReg?_sourceByte h hk size)).trans (congrArg (some <| cutTo size ·) value)

theorem cutTo_byte (w : Word) (p : Nat) : cutTo .byte (w >>> p) = (w.extractLsb' p 8).setWidth 32 := by
  rw [cutTo, setWidth_shiftRight]

theorem cutTo_half (w : Word) (p : Nat) : cutTo .half (w >>> p) = (w.extractLsb' p 16).setWidth 32 := by
  rw [cutTo, setWidth_shiftRight]

/-! ### Reads of the other registers -/

theorem cliccfg_eq_ofNat (nlbits : BitVec 4) :
    (nlbits ++ 1#1).setWidth 32 = BitVec.ofNat 32 (2 * nlbits.toNat + 1) := by
  rw [← BitVec.ofNat_toNat, append_toNat, Nat.mul_comm]
  rfl

section Reference

variable {s : State} (h : s.cfg.layout = .reference)

include h

theorem tcipRead_clicinfo : s.tcipRead 0xE0800004 .word =
    some (0#7 ++ BitVec.ofNat 4 s.cfg.ctlBits.toNat ++ s.cfg.clicinfoVersion ++ BitVec.ofNat 13 (16 + s.cfg.numExt)) := by
  show some (clicinfoWord s.cfg) = _
  rw [clicinfoWord, h]
  refine congrArg some (.trans ?_ (placeField_word _))
  simp only [placeField_append, placeField_zero, BitVec.zero_or]
  rw [BitVec.or_comm, BitVec.or_comm (placeField (BitVec.ofNat 13 _) _), ← BitVec.or_assoc]
  rfl

theorem tcipRead_minththresh : s.tcipRead 0xE0800008 .word = some (s.clic.mth ++ 0#24) := by
  show some (placeField s.clic.mth s.cfg.layout.mintthreshMth) = _
  rw [h, ← placeField_word (s.clic.mth ++ 0#24), placeField_append, placeField_zero, BitVec.or_zero]
  rfl

end Reference

/-- Settles O24: the fixed addresses by their registers, an id by the word of the source found for it. -/
theorem deviceWordsRead : Obligations.DeviceWordsRead := by
  intro s
  refine ⟨rfl, rfl, rfl, rfl, rfl, congrArg some (cliccfg_eq_ofNat s.clic.nlbits),
    fun h => ⟨tcipRead_clicinfo h, tcipRead_minththresh h⟩, fun id w small source => ?source⟩
  case source =>
    have word : (s.source? id).elim 0 s.sourceWord = w := by
      rcases source with ⟨x, hx, distinct, rfl, rfl⟩ | ⟨absent, rfl⟩
      · rw [State.source?, find?_id_of_mem distinct hx, ← sourceWord_eq_fields]
        rfl
      · rw [source?_absent absent]
        rfl
    refine ⟨?word, fun k hk => ?byte, fun k hk => ?half⟩
    case word => simpa [cutTo] using tcipRead_source (k := 0) small (by omega) word .word
    case byte => rw [tcipRead_source small hk word, cutTo_byte]
    case half => rw [tcipRead_source small (by omega) word, cutTo_half, ← Nat.mul_assoc]

/-! ### Stores to a source -/

theorem tcipWrite_source (s : State) {id k : Nat} (h : id < 256) (hk : k < 4) (size : AccessSize) (v : Word) :
    s.tcipWrite (0xE0801000 + 4 * BitVec.ofNat 32 id + BitVec.ofNat 32 k) size v =
      some (s.setSource id fun x => x.store s.cfg k size v) :=
  congrArg (Option.map _) (tcipReg?_sourceByte h hk size)

section

variable (c : Config) (x : ClicSource) (v : Word)

/-! Each byte rule, on the byte that a store takes from bit `p` of its value on (60 R465 to R468). -/

theorem writeIp_shiftRight (p : Nat) : x.writeIp ((v >>> p).setWidth 8) =
    { x with ip := if x.trig.getLsbD 0 then v.getLsbD p || x.edge else x.ip } := by
  have bit : ((v >>> p).setWidth 8).getLsbD 0 = v.getLsbD p := by simp
  rw [ClicSource.writeIp, ClicSource.isEdge, bit]
  split <;> rfl

theorem writeIe_shiftRight (p : Nat) : x.writeIe ((v >>> p).setWidth 8) = { x with ie := v.getLsbD p } := by
  simp [ClicSource.writeIe]

theorem writeAttr_shiftRight (p : Nat) : x.writeAttr ((v >>> p).setWidth 8) =
    { x with shv := v.getLsbD p, trig := v.extractLsb' (p + 1) 2 } := by
  have bit : (v.extractLsb' p 8).getLsbD 0 = v.getLsbD p := by simp
  rw [ClicSource.writeAttr, setWidth_shiftRight, extract_extract v (by decide), bit]

theorem writeCtl_shiftRight (p : Nat) : x.writeCtl c ((v >>> p).setWidth 8) =
    { x with ctl := v.extractLsb' p 8 ||| (0xFF#8 >>> c.ctlBits.toNat) } := by
  rw [ClicSource.writeCtl, setWidth_shiftRight]

/-! A store applies the rules of the bytes it covers, the lowest first. -/

theorem store_word : x.store c 0 .word v = { x with
    ip := if x.trig.getLsbD 0 then v.getLsbD 0 || x.edge else x.ip
    ie := v.getLsbD 8
    shv := v.getLsbD 16
    trig := v.extractLsb' 17 2
    ctl := v.extractLsb' 24 8 ||| (0xFF#8 >>> c.ctlBits.toNat) } := by
  show (((x.writeIp ((v >>> 0).setWidth 8)).writeIe ((v >>> 8).setWidth 8)).writeAttr ((v >>> 16).setWidth 8)).writeCtl c
    ((v >>> 24).setWidth 8) = _
  rw [writeCtl_shiftRight, writeAttr_shiftRight, writeIe_shiftRight, writeIp_shiftRight]

theorem store_lowHalf : x.store c 0 .half v = { x with
    ip := if x.trig.getLsbD 0 then v.getLsbD 0 || x.edge else x.ip
    ie := v.getLsbD 8 } := by
  show (x.writeIp ((v >>> 0).setWidth 8)).writeIe ((v >>> 8).setWidth 8) = _
  rw [writeIe_shiftRight, writeIp_shiftRight]

theorem store_highHalf : x.store c 2 .half v = { x with
    shv := v.getLsbD 0
    trig := v.extractLsb' 1 2
    ctl := v.extractLsb' 8 8 ||| (0xFF#8 >>> c.ctlBits.toNat) } := by
  show (x.writeAttr ((v >>> 0).setWidth 8)).writeCtl c ((v >>> 8).setWidth 8) = _
  rw [writeCtl_shiftRight, writeAttr_shiftRight]

end

/-- A change of the source with an id that no source has changes nothing (D42). -/
theorem setSource_absent {s : State} {id : Nat} (h : ∀ x ∈ s.clic.sources, x.id ≠ id) (f : ClicSource → ClicSource) :
    s.setSource id f = s := by
  have same : s.clic.sources.map (fun x => if x.id = id then f x else x) = s.clic.sources :=
    (List.map_congr_left fun x hx => if_neg (h x hx)).trans (List.map_id _)
  rw [State.setSource, same]

/-- The store of a source, in the words of a change of that source. -/
theorem tcipWrite_source_of_store {s : State} {id k : Nat} {size : AccessSize} {v : Word} {f : ClicSource → ClicSource}
    (h : id < 256) (hk : k < 4) (store : ∀ x : ClicSource, x.store s.cfg k size v = f x) :
    s.tcipWrite (0xE0801000 + 4 * BitVec.ofNat 32 id + BitVec.ofNat 32 k) size v = some (s.setSource id f) := by
  rw [tcipWrite_source s h hk, funext store]

theorem tcipWrite_source_of_store_zero {s : State} {id : Nat} {size : AccessSize} {v : Word}
    {f : ClicSource → ClicSource} (h : id < 256) (store : ∀ x : ClicSource, x.store s.cfg 0 size v = f x) :
    s.tcipWrite (0xE0801000 + 4 * BitVec.ofNat 32 id) size v = some (s.setSource id f) := by
  rw [← tcipWrite_source_of_store h (by decide) store, BitVec.ofNat_eq_ofNat, BitVec.add_zero]

/-! ### Stores to the other registers -/

theorem cliccfg_readBack (v : Word) : (v.extractLsb' 1 4 ++ 1#1).setWidth 32 = (v &&& 0x1E) ||| 1 := by
  have mask : (0x1E : Word) = placeField (BitVec.allOnes 4) 1 := by decide
  have one : placeField 1#1 0 = 1 := by decide
  refine (BitVec.shiftLeft_zero _).symm.trans ((placeField_append (v.extractLsb' 1 4) 1#1 0).trans ?_)
  rw [placeField_extract, mask, one]

theorem tcipWrite_minththresh {s : State} (h : s.cfg.layout = .reference) (v : Word) :
    s.tcipWrite 0xE0800008 .word v = some { s with clic := { s.clic with mth := v.extractLsb' 24 8 } } := by
  show some { s with clic := { s.clic with mth := v.extractLsb' s.cfg.layout.mintthreshMth 8 } } = _
  rw [h]
  rfl

/-- Settles O25: a store to an id is a change of its source, which the bytes covered make. -/
theorem deviceWordsWritten : Obligations.DeviceWordsWritten := by
  intro s v
  refine ⟨rfl, ⟨_, rfl, rfl, congrArg some ?lowWritten, congrArg some ?highKept⟩,
    ⟨_, rfl, rfl, congrArg some ?highWritten, congrArg some ?lowKept⟩, rfl, rfl, rfl,
    ⟨_, rfl, rfl, congrArg some (cliccfg_readBack v)⟩,
    fun h => ⟨_, tcipWrite_minththresh h v, rfl, ?minththresh⟩, fun id base tied put small => ?source⟩
  case lowWritten => exact (extract_append_low _ _ _ _ (by decide)).trans (extract_all v)
  case highKept => exact (extract_append_high _ _ _ _ (by decide)).trans (extract_all _)
  case highWritten => exact (extract_append_high _ _ _ _ (by decide)).trans (extract_all v)
  case lowKept => exact (extract_append_low _ _ _ _ (by decide)).trans (extract_all _)
  case minththresh =>
    refine (tcipRead_minththresh (s := { s with clic := { s.clic with mth := v.extractLsb' 24 8 } }) h).trans
      (congrArg some ?_)
    refine (placeField_word _).symm.trans ?_
    rw [placeField_append, placeField_zero, BitVec.or_zero, placeField_extract]
    rfl
  case source =>
    rintro rfl rfl change
    have tiedBits : ((0xFF#8 >>> s.cfg.ctlBits.toNat).setWidth 32).setWidth 8 = 0xFF#8 >>> s.cfg.ctlBits.toNat := by
      rw [BitVec.setWidth_setWidth_of_le _ (by decide), BitVec.setWidth_eq]
    have same : put = s.setSource id := funext change
    rw [tiedBits, same]
    exact ⟨tcipWrite_source_of_store_zero small fun x => store_word _ x v,
      tcipWrite_source_of_store_zero small fun x => store_lowHalf _ x v,
      tcipWrite_source_of_store (k := 2) small (by decide) fun x => store_highHalf _ x v,
      tcipWrite_source_of_store_zero small fun x => writeIp_shiftRight x v 0,
      tcipWrite_source_of_store (k := 1) small (by decide) fun x => writeIe_shiftRight x v 0,
      tcipWrite_source_of_store (k := 2) small (by decide) fun x => writeAttr_shiftRight x v 0,
      tcipWrite_source_of_store (k := 3) small (by decide) fun x => writeCtl_shiftRight _ x v 0,
      setSource_absent⟩

end Sys2Proof.Machine


/-! SUPPORT. The debug unit (60 R435, R500, R503, R504): leaving debug mode, replacing the state by another that keeps the
constant bits, the words of HCR and DACSR, and the transfers of words of memory (`DebugUnitEvents`). -/

namespace Sys2Proof.Machine

theorem inDebug_eq {s : State} (debug : s.debugMode = true) (f : State → State) : s.inDebug f = f s := if_pos debug

/-! ### Leaving debug mode -/

theorem hostEvent_debugExit {s : State} (debug : s.debugMode = true) (r : Word) :
    s.hostEvent (.debugExit r) = .ok (s.debugLeave r) :=
  congrArg Except.ok (inDebug_eq debug _)

theorem debugLeave_stays {s : State} (lockup : s.csr.ex.lockup = true) :
    s.debugLeave 0xEFFFFFFC = { s with debugMode := false } := by
  rw [State.debugLeave, if_pos (by rw [lockup]; rfl)]

theorem debugLeave_releases {s : State} (lockup : s.csr.ex.lockup = true) {r : Word} (other : r ≠ 0xEFFFFFFC) :
    s.debugLeave r = { s with
      debugMode := false
      pc := r &&& 0xFFFFFFFE
      lockupNmi := false
      csr := { s.csr with ex := { s.csr.ex with lockup := false, exptVld := false } } } := by
  have marker : (r == stayLockedPc) = false := beq_eq_false_iff_ne.2 other
  rw [State.debugLeave, if_neg (by simp [marker]), if_pos lockup]

theorem debugLeave_unlocked {s : State} (lockup : s.csr.ex.lockup = false) (r : Word) :
    s.debugLeave r = { s with debugMode := false, pc := r &&& 0xFFFFFFFE } := by
  rw [State.debugLeave, if_neg (by simp [lockup]), if_neg (by simp [lockup])]

/-! ### Replacing the state: what is legal already stays as it is -/

theorem and_mask_of_even {v : Word} (even : v.getLsbD 0 = false) : v &&& 0xFFFFFFFE = v := by
  have parts : v &&& (0xFFFFFFFE ||| placeField (BitVec.allOnes 1) 0) = v := BitVec.and_allOnes
  have bit : v &&& placeField (BitVec.allOnes 1) 0 = 0#32 := by
    rw [← placeField_bit, even]
    rfl
  rwa [BitVec.and_or_distrib_left, bit, BitVec.or_zero] at parts

theorem legalPriv_eq {c : Config} {p : Priv} (h : c.hasUmode = false → p = .machine) : legalPriv c p = p := by
  unfold legalPriv
  cases user : c.hasUmode
  · exact (h user).symm
  · rfl

theorem Csrs.legal_eq {x : Csrs} {c : Config} (mepc : x.mepc.getLsbD 0 = false) (mnmipc : x.mnmipc.getLsbD 0 = false)
    (mpp : c.hasUmode = false → x.status.mpp = .machine) (lpmd : x.ex.lpmd.getLsbD 1 = false) : x.legal c = x := by
  rw [Csrs.legal, and_mask_of_even mepc, and_mask_of_even mnmipc, legalPriv_eq mpp,
    if_neg (ne_true_of_eq_false lpmd)]

theorem and_9F_of_reserved {v : Byte} (reserved : v.extractLsb' 5 2 = 0) : v &&& 0x9F = v := by
  revert v
  decide

theorem Pmp.legal_eq {p : Pmp} {count : Nat} (h : p.Legal count) : p.legal count = p := by
  obtain ⟨absentCfg, absentAddr, reserved⟩ := h
  have cfg : (p.legal count).cfg = p.cfg := by
    refine Vector.ext fun i hi => ?_
    by_cases present : i < count
    · simpa [Pmp.legal, present] using and_9F_of_reserved (reserved ⟨i, hi⟩)
    · simpa [Pmp.legal, present] using (absentCfg ⟨i, hi⟩ (Nat.le_of_not_lt present)).symm
  have addr : (p.legal count).addr = p.addr := by
    refine Vector.ext fun i hi => ?_
    by_cases present : i < count
    · simp [Pmp.legal, present]
    · simpa [Pmp.legal, present] using (absentAddr ⟨i, hi⟩ (Nat.le_of_not_lt present)).symm
  cases p
  exact congrArg₂ Pmp.mk cfg addr

theorem sourceIds_nodup (c : Config) : (sourceIds c).Nodup := by
  rw [sourceIds, List.nodup_append]
  refine ⟨by decide, (List.nodup_range).map fun _ _ h => Nat.add_left_cancel h, ?_⟩
  intro a ha b hb
  simp only [List.mem_cons, List.not_mem_nil, or_false] at ha
  obtain ⟨k, _, rfl⟩ := List.mem_map.1 hb
  omega

theorem Clic.Legal.distinct {x : Clic} {c : Config} (h : x.Legal c) :
    x.sources.Pairwise fun y z => y.id ≠ z.id :=
  List.pairwise_map.1 (h.ids ▸ sourceIds_nodup c)

theorem or_eq_self_of_and_not {a b : Byte} (h : a &&& ~~~ b = 0) : b ||| a = b := by
  ext i hi
  have bit := congrArg (fun x : Byte => x[i]) h
  simp only [BitVec.getElem_and, BitVec.getElem_not, BitVec.getElem_or] at bit ⊢
  revert bit
  cases a[i] <;> cases b[i] <;> simp

/-- Of two CLICs with the same ids, each source takes over the whole record of the other's. -/
theorem Clic.replacedBy_eq {x y : Clic} {c : Config} (hx : x.Legal c) (hy : y.Legal c) : x.replacedBy y c = y := by
  have ids : x.sources.map (·.id) = y.sources.map (·.id) := hx.ids.trans hy.ids.symm
  have length : x.sources.length = y.sources.length := by simpa using congrArg List.length ids
  have sources : (x.replacedBy y c).sources = y.sources := by
    refine List.ext_getElem (by simpa [Clic.replacedBy] using length) fun i hi hi' => ?_
    have same : x.sources[i].id = y.sources[i].id := by
      have inMap : i < (x.sources.map (·.id)).length := by simpa [length] using hi'
      simpa using List.getElem_of_eq ids inMap
    have found : y.sources.find? (fun b => b.id == x.sources[i].id) = some y.sources[i] := by
      rw [same]
      exact find?_id_of_mem hy.distinct (List.getElem_mem hi')
    simp only [Clic.replacedBy, List.getElem_map, found]
    rw [same, or_eq_self_of_and_not (hy.tied _ (List.getElem_mem hi'))]
  cases y
  exact congrArg (Clic.mk _ _) sources

theorem hostEvent_debugReplace {s : State} (debug : s.debugMode = true) (m : Snapshot) :
    s.hostEvent (.debugReplace m) = .ok (s.replacedBy m) :=
  congrArg Except.ok (inDebug_eq debug _)

theorem reg_replacedBy (s : State) (m : Snapshot) {r : Reg} (h : r ≠ 0) : (s.replacedBy m).reg r = m.regs[r.val] := by
  have position : 0 ≠ r.val := fun e => h (Fin.ext e.symm)
  rw [State.reg, if_neg h, State.replacedBy_regs]
  exact Vector.getElem_set_ne _ _ position

theorem byteAt_replacedBy (s : State) {m : Snapshot} {a : Word} {v : Byte} (byte : m.mem = [(a, v)])
    (outside : inTcip a = false) (b : Word) : (s.replacedBy m).byteAt b = if b = a then v else s.byteAt b := by
  have mem : (s.replacedBy m).mem = Memory.write s.mem a.toNat v := by
    rw [State.replacedBy_mem, byte]
    exact if_neg (ne_true_of_eq_false outside)
  rw [State.byteAt, mem, Memory.read_write]
  simp only [BitVec.toNat_inj]
  rfl

/-! ### Transfers of words of memory -/

section Transfer

variable {s : State} (on : s.had.ddae = true) (size : s.had.transSize = 2) (mode : s.had.transMode ≤ 1)
  (outside : inTcip s.had.datr = false)

include on size mode outside

theorem ddmaWrite_word (answered : s.busError s.had.datr .word .store = false) (v : Word) :
    s.ddmaWrite v = .ok { s.writeBytes s.had.datr .word v with had := s.had.transferred .word false } := by
  have code : ddmaSize s.had.transSize = some .word := by rw [size]; rfl
  have legal : decide (s.had.transMode ≤ 1#3) = true := decide_eq_true mode
  simp [State.ddmaWrite, on, code, legal, outside, answered]

theorem ddmaRead_word (idle : s.had.dataPhase = false) (answered : s.busError s.had.datr .word s.had.readKind = false) :
    s.ddmaRead = .ok { s with had := s.had.received .word (s.wordAt s.had.datr) } := by
  have code : ddmaSize s.had.transSize = some .word := by rw [size]; rfl
  have legal : decide (s.had.transMode ≤ 1#3) = true := decide_eq_true mode
  rw [← readLE_word]
  simp [State.ddmaRead, idle, on, code, legal, outside, answered, AccessSize.bytes]

end Transfer

/-- The word another agent stored is read back. -/
theorem wordAt_writeBytes (s : State) (a v : Word) : (s.writeBytes a .word v).wordAt a = v := by
  rw [← readLE_word]
  refine (Memory.readLE_writeLE s.mem a v (Nat.le_refl 4) (Nat.le_refl 4)).trans ?_
  rw [BitVec.setWidth_eq, BitVec.setWidth_eq]

/-! ### DACSR -/

theorem placeField_and {w : Nat} (a b : BitVec w) (p : Nat) :
    placeField (a &&& b) p = placeField a p &&& placeField b p := by
  rw [placeField, BitVec.setWidth_and, BitVec.shiftLeft_and_distrib]
  rfl

theorem dacsrWord_reference (h : Had) : h.dacsrWord .reference =
    placeField h.transMode 0 ||| placeField h.transSize 4 ||| placeField h.transProt 8 |||
      placeField (boolBit h.error) 17 ||| placeField (boolBit h.dataPhase) 18 := by
  have busy : placeField (boolBit h.transBusy) 16 = 0#32 := placeField_zero 16
  show placeField h.transMode 0 ||| placeField h.transSize 4 ||| placeField h.transProt 8 |||
    placeField (boolBit h.transBusy) 16 ||| placeField (boolBit h.error) 17 ||| placeField (boolBit h.dataPhase) 18 = _
  rw [busy, BitVec.or_zero]

/-- DACSR after a write of `v`: the writable fields as written, TRANS ERROR as it was. -/
theorem dacsrWord_written (h : Had) (v : Word) : (h.writeDacsr .reference v).dacsrWord .reference =
    (v &&& 0x00040B77) ||| (h.dacsrWord .reference &&& 0x00020000) := by
  have mask : (0x00040B77 : Word) = placeField (BitVec.allOnes 3) 0 ||| placeField (BitVec.allOnes 3) 4 |||
      (placeField (BitVec.allOnes 4) 8 &&& placeField 0xB#4 8) ||| placeField (BitVec.allOnes 1) 18 := by decide
  have error : h.dacsrWord .reference &&& 0x00020000 = placeField (boolBit h.error) 17 := by
    rw [dacsrWord_reference]
    simp (disch := decide) [BitVec.and_or_distrib_right, placeField_and_eq_zero, placeField_and_eq_self]
  rw [error, mask, dacsrWord_reference]
  simp only [Had.writeDacsr, Layout.reference, placeField_and, placeField_extract, placeField_bit,
    BitVec.and_or_distrib_left, BitVec.and_assoc]
  exact or_right_comm _ _ _

/-- Settles O60, event by event. -/
theorem debugUnitEvents : Obligations.DebugUnitEvents := by
  intro s
  refine ⟨fun r debug => ?exit, ?replace, ?patch, fun v on size mode outside answered => ?write, fun phase => if_pos phase,
    fun on idle size mode outside answered => ?read, fun v => ⟨rfl, rfl, fun h => ?dacsr⟩⟩
  case exit =>
    rw [hostEvent_debugExit debug]
    refine ⟨fun lockup other => congrArg _ (debugLeave_releases lockup other), ?_,
      fun lockup => congrArg _ (debugLeave_unlocked lockup r)⟩
    rintro lockup rfl
    exact congrArg _ (debugLeave_stays lockup)
  case replace =>
    rintro m u debug rfl old new noBytes
    refine ⟨_, hostEvent_debugReplace debug m, ?_, fun r => ?_⟩
    · rw [State.replacedBy, and_mask_of_even new.pcEven, legalPriv_eq fun h => (new.modes h).1,
        Csrs.legal_eq new.mepcEven new.mnmipcEven (fun h => (new.modes h).2) new.lpmd, Pmp.legal_eq new.pmp,
        Clic.replacedBy_eq old.clic new.clic, noBytes]
      rfl
    · by_cases zero : r = 0
      · rw [zero]
        rfl
      · exact (reg_replacedBy s m zero).trans (if_neg zero).symm
  case patch =>
    intro m a v debug byte outside
    have bytes := byteAt_replacedBy s byte outside
    exact ⟨_, hostEvent_debugReplace debug m, (bytes a).trans (if_pos rfl), fun b other => (bytes b).trans (if_neg other)⟩
  case write =>
    exact ⟨_, ddmaWrite_word on size mode outside answered v, rfl, wordAt_writeBytes s _ v,
      fun a others => Memory.read_writeLE_other s.mem _ a _ v others⟩
  case read =>
    refine (ddmaRead_word on size mode outside idle answered).trans ?_
    rw [Had.received, idle, Bool.or_false]
    rfl
  case dacsr =>
    refine ⟨_, rfl, rfl, ?_, ?_⟩
    · show (s.had.writeDacsr s.cfg.layout v).dacsrWord s.cfg.layout = _
      rw [h]
      exact dacsrWord_written s.had v
    · exact ⟨rfl, rfl⟩

end Sys2Proof.Machine
